-- ==== Sys2Proof/Config.lean ====
section
/-! DEFINITION. The implementation parameters of the block (00_scope.md R6) with the values the spec takes,
and the open parameters: constants without a body, so that nothing can be proved of their values. DESIGN CHOICE: the
parameters are fixed at the values R6 takes (log entry 10). -/

namespace Sys2Proof.Config

/-- `W` of R6: the width in bits of each big-number register. -/
def W : Nat := 4096

/-- `LIMB` of R6: the width in bits of one bus word and of one limb. -/
abbrev limbBits : Nat := 32

/-- `NL` of R6: the number of limbs of a big-number register, `W / LIMB`. -/
abbrev NL : Nat := 128

/-- `L_DEFAULT` of R6: the modulus length SETUP takes when its immediate is 0 (R93). -/
abbrev defaultLength : Nat := 2048

/-- `ID_VALUE` of R6: what the read-only register ID reads (R31). -/
abbrev idValue : BitVec 32 := 0x4D535245

/-- `XCAP_RESET` of R6: the reset value of the extraction cap (R39). -/
abbrev xcapReset : BitVec 32 := 10000

/-- `SCAP_RESET` of R6: the reset value of the setup draw cap (R40). -/
abbrev scapReset : BitVec 32 := 10000

/-- The widest draw the port serves: `Draw(k)` has `1 ≤ k ≤ W/2` (R47). -/
def portBits : Nat := 2048

/-- `RNG` of R6, open: the answer the random source gives to the `i`-th draw since power-on, when no answer was
given explicitly in the state (R47: "a model admits every value in range as an answer").
DESIGN CHOICE (log entry 3). -/
opaque randomAnswer : Nat → BitVec portBits

/-- `HASH` of R6, open and the host's: the configured cryptographic hash (45_host_sequences.md R183). This and the
five below are read by the host's sequences alone. DESIGN CHOICE (log entry 9). -/
opaque hash : List (BitVec 8) → List (BitVec 8)

/-- `HEXFORM` of R6, open and the host's: the canonical hexadecimal text form, as bytes (R183). -/
opaque hexForm : Nat → List (BitVec 8)

/-- `DIGEST_TO_INT` of R6, open and the host's: the digest read as an integer (R183). -/
opaque digestToInt : List (BitVec 8) → Nat

/-- `TEXT_ENCODING` of R6, open and the host's: how a text identity becomes bytes (R183). -/
opaque textEncoding : String → List (BitVec 8)

/-- `ENC_CAP` of R6, open and the host's: the most turns of one redraw loop of encryption (R187). -/
opaque encCap : Nat

/-- The answer the host's own random source gives to its `i`-th draw, when none was given explicitly (R187). -/
opaque hostAnswer : Nat → Nat

end Sys2Proof.Config
end

