-- ==== Sys2Proof/Word.lean ====
section
/-! DEFINITION. The word types of the block: the 32-bit bus word, the byte of a FAULT field, the 12-bit byte
offset inside the register space, and the big-number register (00_scope.md R6, R9; 10_state.md R21, R46). -/

namespace Sys2Proof

/-- An 8-bit field: CODE and SUB (R20), the `op` and `rsv` fields of a command word (R91), a byte lane (R65). -/
abbrev Byte := BitVec 8

/-- The block's unit of transfer, the 32-bit word (R65). -/
abbrev Word := BitVec 32

/-- A byte offset inside the 4096-byte register space, 0x000 to 0xFFF (R60). -/
abbrev Offset := BitVec 12

/-- The content of a big-number register, `W` bits (R21). -/
abbrev Big := BitVec Config.W

/-- A register holding the natural number `x` (R8: every value a rule writes is below `2^W`). -/
abbrev big (x : Nat) : Big := BitVec.ofNat Config.W x

end Sys2Proof
end

