-- ==== Sys2Proof/Syntax.lean ====
section
/-! DEFINITION. The commands of "MSRE command set 1" (30_encoding.md R92), one constructor for each row of
spec/opcode_table.json. -/

namespace Sys2Proof

/-- A decoded command (R92). The big-number operands are fixed registers and are not named in the word (R91);
the one operand is the 16-bit immediate of SETUP, a requested bit length (R93), kept as the number it is. -/
inductive Instr where
  | nop
  | jacobi
  | modexp
  | sqrt
  | setup (imm16 : Nat)
  | xinit
  | xtry
  | zeroize
deriving DecidableEq, Repr

/-- `op = w[7:0]` of each command (R92). -/
def Instr.opcode : Instr → Byte
  | .nop => 0x00
  | .jacobi => 0x01
  | .modexp => 0x02
  | .sqrt => 0x03
  | .setup _ => 0x04
  | .xinit => 0x05
  | .xtry => 0x06
  | .zeroize => 0x07

/-- The 31:16 field of each command: `imm16` in format CI, 0 in format C0 (R91). -/
def Instr.immediate : Instr → Nat
  | .nop => 0
  | .jacobi => 0
  | .modexp => 0
  | .sqrt => 0
  | .setup imm16 => imm16
  | .xinit => 0
  | .xtry => 0
  | .zeroize => 0

end Sys2Proof
end

