-- ==== Sys2Proof/WellFormed.lean ====
section
/-! DEFINITION. Which commands can be written as a command word: the immediate of SETUP is an unsigned 16-bit
number (30_encoding.md R93), "from 0 to 65535" in the assembler (R99). Whether the length it asks for is
legal is SETUP's own check, not the decoder's (R93). -/

namespace Sys2Proof

/-- A command whose immediate, if it has one, fits the 16-bit field (R93, R99). -/
def Instr.wellFormed : Instr → Bool
  | .nop => true
  | .jacobi => true
  | .modexp => true
  | .sqrt => true
  | .setup imm16 => decide (imm16 < 65536)
  | .xinit => true
  | .xtry => true
  | .zeroize => true

end Sys2Proof
end

