-- ==== Sys2Proof/Decode.lean ====
section
/-! DEFINITION. The decoder of command words, total on all of them, and the encoder (30_encoding.md R90 to R94,
R99). -/

namespace Sys2Proof

/-- Why a word is illegal, in the order the decoder of R94 checks (the fault is one, ILLEGAL_COMMAND, for the
first three). `notOneWord` is for a byte string that is not one 32-bit word (R90: there is one length). -/
inductive Illegal where
  | reservedBits
  | unknownOpcode
  | immediateNotZero
  | notOneWord
deriving DecidableEq, Repr

/-- `op = w[7:0]` (R91). -/
def opField (w : Word) : Byte := w.extractLsb' 0 8

/-- `rsv = w[15:8]` (R91). -/
def rsvField (w : Word) : Byte := w.extractLsb' 8 8

/-- `imm16 = w[31:16]` (R91), the number it stands for (R93: unsigned, not scaled, not shifted). -/
def immField (w : Word) : Nat := (w.extractLsb' 16 16).toNat

/-- `Decode(w)` of R94, check by check. -/
def decode (w : Word) : Except Illegal Instr :=
  if rsvField w ≠ 0 then .error .reservedBits
  else if 0x07 < (opField w).toNat then .error .unknownOpcode
  else if opField w ≠ 0x04 ∧ immField w ≠ 0 then .error .immediateNotZero
  else match (opField w).toNat with
    | 0x00 => .ok .nop
    | 0x01 => .ok .jacobi
    | 0x02 => .ok .modexp
    | 0x03 => .ok .sqrt
    | 0x04 => .ok (.setup (immField w))
    | 0x05 => .ok .xinit
    | 0x06 => .ok .xtry
    | 0x07 => .ok .zeroize
    | _ => .error .unknownOpcode

/-- The word of four byte lanes, the byte at the lowest offset first: little-endian (R65). -/
def wordOfLanes (b0 b1 b2 b3 : Byte) : Word := b3 ++ b2 ++ b1 ++ b0

/-- The byte lanes of a word, lowest offset first (R65). -/
def lanesOfWord (w : Word) : List Byte :=
  [w.extractLsb' 0 8, w.extractLsb' 8 8, w.extractLsb' 16 8, w.extractLsb' 24 8]

/-- The decoder on byte lanes: exactly the 32 bits of one CMD write (R90), laid out as R65 says. -/
def decodeLanes : List Byte → Except Illegal Instr
  | [b0, b1, b2, b3] => decode (wordOfLanes b0 b1 b2 b3)
  | _ => .error .notOneWord

/-- The word the assembler emits, `(imm16 · 2^16) + op` (R99); it stands for `i` when `i` is well-formed. -/
def encode (i : Instr) : Word := BitVec.ofNat 32 (i.immediate * 2 ^ 16 + i.opcode.toNat)

/-- A row's word of spec/opcode_table.json as a 32-bit command word: every bit above `nbits` is 0. -/
def tableWord (nbits w : Nat) : Word := BitVec.ofNat 32 (w % 2 ^ nbits)

/-- What the decoder reads from an instruction whose bits are `w`, laid out in byte lanes first. -/
def decodeTableWord (nbits w : Nat) : Option Instr :=
  match decodeLanes (lanesOfWord (tableWord nbits w)) with
  | .ok i => some i
  | .error _ => none

end Sys2Proof
end

