-- ==== Sys2Proof/Machine/State.lean ====
section
/-! DEFINITION. The whole state of the block (10_state.md R20), the input events the other agents of
00_scope.md R15 bring, and the state after reset (R48). -/

namespace Sys2Proof.Machine

/-- The values of J (R20, R29): a Jacobi symbol is −1, 0 or +1. -/
inductive JacobiValue where
  | minusOne
  | zero
  | plusOne
deriving DecidableEq, Repr

/-- The random-source port (R47): the one input stream of the block (R46). It is an agent of its own (R15), no
state of the block: these fields are the MODEL's. `answers` are the answers given explicitly, next first
(R47: "For reproducible tests the answers are given as an explicit list"); after them the source answers with
free values, `Config.randomAnswer` at `taken`, the number of answers it has given so far; or, when `silent`,
it never answers again (70_reset_and_hazards.md R252). Log entries 3 and 4. -/
structure RandomPort where
  answers : List (BitVec Config.portBits)
  taken : Nat
  silent : Bool
deriving DecidableEq, Repr

/-- One event of the total order of R73: a host transaction (R60, with any size; `v` is a 32-bit word), the
reset input (R240), the engine's turn (R96), or time passing without an engine step (R255). `consumed` is how many
answers of the random source the command the reset discards had already consumed (R243). -/
inductive Input where
  | read (off : Offset) (size : Nat)
  | write (off : Offset) (size : Nat) (v : Word)
  | rst (consumed : Nat)
  | engine
  | idle
deriving DecidableEq, Repr

/-- The state. The first block of fields is the whole state R20 lists, each under its own name. The last three
fields are the MODEL's own: the random source (R47), the input events still to come, in order (R73), and
the word the last bus read returned (R63). Log entries 2 and 3. -/
structure State where
  n : Big
  a : Big
  e : Big
  r : Big
  p : Big
  q : Big
  sk : Bool
  acc : Bool
  neg : Bool
  xact : Bool
  busy : Bool
  done : Bool
  flt : Bool
  accErr : Bool
  ie : Bool
  j : JacobiValue
  cmdr : Word
  idlen : Word
  iter : Word
  xcap : Word
  scap : Word
  draws : Word
  code : Byte
  sub : Byte
  port : RandomPort
  inputs : List Input
  rdata : Word
deriving DecidableEq, Repr

/-- Reasons for which the machine itself would stop. There are none: every fault of the block is the recorded
end of a command (60_exceptions.md R200, R203), after which the block is fully usable (R214); a refused bus
access sets ACCERR and is no fault (R44); a silent random source leaves the command in flight (R252).
Safe: no step stops where the block goes on. DEDUCED (log entry 11). -/
inductive Fault where
deriving DecidableEq, Repr

/-- Reasons for which the model declines a step. -/
inductive Refusal where
  /-- Raised by `exec` for an instruction that has no meaning yet. No arm of `exec` answers it: every row of the
  opcode table has its meaning. Safe: the model would stop where the block goes on. -/
  | notModelled (mnemonic : String)
deriving DecidableEq, Repr

/-- The state after reset (R48, R240): every field of R20 at the value R48 gives. The model's own fields stand
for agents outside the block; their values here are a DESIGN CHOICE (log entries 2 and 3). -/
def State.reset : State where
  n := 0
  a := 0
  e := 0
  r := 0
  p := 0
  q := 0
  sk := false
  acc := false
  neg := false
  xact := false
  busy := false
  done := false
  flt := false
  accErr := false
  ie := false
  j := .zero
  cmdr := 0
  idlen := 0
  iter := 0
  xcap := Config.xcapReset
  scap := Config.scapReset
  draws := 0
  code := 0
  sub := 0
  port := { answers := [], taken := 0, silent := false }
  inputs := []
  rdata := 0

end Sys2Proof.Machine
end

