-- ==== Sys2Proof/Machine/Arith.lean ====
section
/-! DEFINITION. The mathematical functions of the rules (00_scope.md R11), on natural numbers of any size (R8,
41_modexp.md R123), written so that they can be evaluated: every loop is a structural recursion on fuel that
never runs out (each docstring says why). -/

namespace Sys2Proof.Machine

/-- `bitlen(x)` of R8: the number of binary digits of `x`, 0 for `x = 0`. -/
def bitlen (x : Nat) : Nat := if x = 0 then 0 else x.log2 + 1

/-- The negation of a Jacobi value, `t <- −t` in R111. -/
def JacobiValue.flip : JacobiValue → JacobiValue
  | .minusOne => .plusOne
  | .zero => .zero
  | .plusOne => .minusOne

/-- The integer a Jacobi value is (R29). -/
def JacobiValue.toInt : JacobiValue → Int
  | .minusOne => -1
  | .zero => 0
  | .plusOne => 1

/-- The inner loop of R111: halve `a` while it is even, with the sign rule on `n mod 8`. Fuel `a` suffices. -/
def halveOut : (fuel a n : Nat) → JacobiValue → Nat × JacobiValue
  | 0, a, _, t => (a, t)
  | fuel + 1, a, n, t =>
    if a % 2 = 0 then halveOut fuel (a / 2) n (if n % 8 = 3 ∨ n % 8 = 5 then t.flip else t)
    else (a, t)

/-- The outer loop of R111: while `a ≠ 0`, halve, swap with the sign rule on `mod 4`, reduce. Fuel `n + 1`
suffices, since the lower argument falls at every turn. -/
def jacobiLoop : (fuel a n : Nat) → JacobiValue → JacobiValue
  | 0, _, _, _ => .zero
  | fuel + 1, a, n, t =>
    if a = 0 then (if n = 1 then t else .zero)
    else
      let (odd, t) := halveOut a a n t
      jacobiLoop fuel (n % odd) odd (if odd % 4 = 3 ∧ n % 4 = 3 then t.flip else t)

/-- `jacobi(a, n)` for odd `n ≥ 1` (R110), by the binary reciprocity algorithm of R111. DEDUCED (log entry 13). -/
def jacobi (a n : Nat) : JacobiValue := jacobiLoop (n + 1) (a % n) n .plusOne

/-- The loop of R121 over the exponent bits below `i`, from the top down. -/
def modexpLoop (b e n : Nat) : (i r : Nat) → Nat
  | 0, r => r
  | i + 1, r => modexpLoop b e n i (if e.testBit i then (r * r) % n * b % n else (r * r) % n)

/-- `modexp(a, e, n)`, the value `a^e mod n` of R120, by the square and multiply of R121. -/
def modexp (a e n : Nat) : Nat := modexpLoop (a % n) e n (bitlen e) (1 % n)

/-- No divisor of `x` from `d` up to the square root of `x`. Fuel `x` suffices: `d` reaches the root before. -/
def noDivisorFrom : (fuel d x : Nat) → Bool
  | 0, _, _ => true
  | fuel + 1, d, x => if x < d * d then true else if x % d = 0 then false else noDivisorFrom fuel (d + 1) x

/-- `is_prime(x)` of R131, by trial division: `x ≥ 2` and no `d` with `1 < d < x` divides `x`. -/
def isPrime (x : Nat) : Bool := decide (2 ≤ x) && noDivisorFrom x 2 x

/-- The parameter `PRIME_TEST` of R6 with the value the spec takes: exact primality (R131). DESIGN CHOICE (log
entry 5). -/
def primeTest (x : Nat) : Bool := isPrime x

/-- The first number from `c` up that passes the test, among `fuel` numbers. -/
def firstPrimeFrom : (fuel c : Nat) → Nat
  | 0, c => c
  | fuel + 1, c => if primeTest c then c else firstPrimeFrom fuel (c + 1)

/-- `next_prime(x)` of R131: the least prime strictly greater than `x`. A prime lies in `(x, 2·x + 2]`. -/
def nextPrime (x : Nat) : Nat := firstPrimeFrom (x + 2) (x + 1)

/-- `blum_exp(p, q, n) = (n + 5 − (p + q)) / 8` of R150; the division is exact for a Blum key. DEDUCED where no key is
held, which no run reaches (log entry 6). -/
def blumExp (p q n : Nat) : Nat := (n + 5 - (p + q)) / 8

/-- `blum_root(a, p, q, n)` of R151. -/
def blumRoot (a p q n : Nat) : Nat := modexp a (blumExp p q n) n

/-- `(n − a) mod n`, which is `(−a) mod n` also for `a` above `n` (R8, R124). DEDUCED for `n = 0` (log entry 6). -/
def negMod (a n : Nat) : Nat := (n - a % n) % n

/-- The outcomes of `Verify` (R152). -/
inductive RootCheck where
  | pos
  | neg
  | fail
deriving DecidableEq, Repr

/-- `Verify(r, a, n)` of R152, the test against `a mod n` first. -/
def verify (r a n : Nat) : RootCheck :=
  if r * r % n = a % n then .pos
  else if r * r % n = negMod a n then .neg
  else .fail

end Sys2Proof.Machine
end

