-- ==== Sys2Proof/Machine/Operands.lean ====
section
/-! DEFINITION. What a command or a bus transaction operates on: the register map (20_memory.md R61), the limbs
of a big-number register (R66, R67), the requested length of SETUP (30_encoding.md R93) and the check on the
modulus (60_exceptions.md R205). -/

namespace Sys2Proof.Machine

/-- The big-number registers that have a window (R61): P and Q have none (10_state.md R26). -/
inductive BigReg where
  | n
  | a
  | e
  | r
deriving DecidableEq, Repr

/-- The window base `B(X)` of R66. -/
def BigReg.base : BigReg → Nat
  | .n => 0x200
  | .a => 0x400
  | .e => 0x600
  | .r => 0x800

/-- What stands at a mapped word offset: a control or status register of R30, or limb `i` of a window (R66). -/
inductive Reg where
  | id
  | cmd
  | status
  | fault
  | ctrl
  | jres
  | idlen
  | iter
  | xcap
  | scap
  | len
  | draws
  | limb (x : BigReg) (i : Nat)
deriving DecidableEq, Repr

/-- The byte offset of a register (R30, R66). -/
def Reg.offset : Reg → Nat
  | .id => 0x000
  | .cmd => 0x004
  | .status => 0x008
  | .fault => 0x00C
  | .ctrl => 0x010
  | .jres => 0x014
  | .idlen => 0x018
  | .iter => 0x01C
  | .xcap => 0x020
  | .scap => 0x024
  | .len => 0x028
  | .draws => 0x02C
  | .limb x i => x.base + 4 * i

/-- The control and status registers of R30, by word number `off / 4`. -/
def controlReg : Nat → Option Reg
  | 0 => some .id
  | 1 => some .cmd
  | 2 => some .status
  | 3 => some .fault
  | 4 => some .ctrl
  | 5 => some .jres
  | 6 => some .idlen
  | 7 => some .iter
  | 8 => some .xcap
  | 9 => some .scap
  | 10 => some .len
  | 11 => some .draws
  | _ => none

/-- The address map of R61 for an offset that is a multiple of 4; `none` where it is unmapped. -/
def regAt (off : Nat) : Option Reg :=
  if off < 0x200 then controlReg (off / 4)
  else if off < 0x400 then some (.limb .n ((off - 0x200) / 4))
  else if off < 0x600 then some (.limb .a ((off - 0x400) / 4))
  else if off < 0x800 then some (.limb .e ((off - 0x600) / 4))
  else if off < 0xA00 then some (.limb .r ((off - 0x800) / 4))
  else none

/-- The content of a host-visible big-number register (R21). -/
def State.bigReg (s : State) : BigReg → Big
  | .n => s.n
  | .a => s.a
  | .e => s.e
  | .r => s.r

/-- `limb(X, i) = (X floor-divided by 2^(32·i)) mod 2^32` (00_scope.md R9). -/
def limb (x : Big) (i : Nat) : Word := BitVec.ofNat 32 (x.toNat / 2 ^ (32 * i))

/-- `X <- X − limb(X, i)·2^(32·i) + v·2^(32·i)`: limb `i` replaced by `v` (R67). -/
def setLimb (x : Big) (i : Nat) (v : Word) : Big :=
  big (x.toNat - (limb x i).toNat * 2 ^ (32 * i) + v.toNat * 2 ^ (32 * i))

/-- The requested modulus length `L` of SETUP (R93): the immediate, or `L_DEFAULT` when it is 0. -/
def requestedLength (imm16 : Nat) : Nat := if imm16 = 0 then Config.defaultLength else imm16

/-- The lengths SETUP faults BAD_LENGTH on (R207): odd, or above `W`. -/
def badLength (L : Nat) : Bool := decide (L % 2 = 1 ∨ Config.W < L)

/-- The moduli JACOBI and MODEXP fault BAD_MODULUS on (R205): even, or below 3. -/
def badModulus (n : Nat) : Bool := decide (n % 2 = 0 ∨ n < 3)

end Sys2Proof.Machine
end

