-- ==== Sys2Proof/Machine/Flags.lean ====
section
/-! DEFINITION. The words the flags and fields are read as (10_state.md R33 to R36, R41), the NEG flag
(43_sqrt_extract.md R153) and the interrupt output (60_exceptions.md R212). -/

namespace Sys2Proof.Machine

/-- STATUS (R33), bit 7 down to bit 0 as in 20_memory.md R63; bits 31:8 read as 0. -/
def State.statusWord (s : State) : Word :=
  (BitVec.ofBool s.accErr ++ BitVec.ofBool s.xact ++ BitVec.ofBool s.neg ++ BitVec.ofBool s.acc ++
    BitVec.ofBool s.sk ++ BitVec.ofBool s.flt ++ BitVec.ofBool s.done ++ BitVec.ofBool s.busy).setWidth 32

/-- FAULT (R34): SUB in bits 15:8, CODE in bits 7:0. -/
def State.faultWord (s : State) : Word := (s.sub ++ s.code).setWidth 32

/-- CTRL (R35): IE in bit 0. -/
def State.ctrlWord (s : State) : Word := (BitVec.ofBool s.ie).setWidth 32

/-- `sext_32(J)` (R36, 00_scope.md R9). -/
def JacobiValue.word : JacobiValue → Word
  | .minusOne => 0xFFFFFFFF
  | .zero => 0x00000000
  | .plusOne => 0x00000001

/-- LEN (R41): `zext_32(bitlen(N))`, computed from the current N. -/
def State.lenWord (s : State) : Word := BitVec.ofNat 32 (bitlen s.n.toNat)

/-- NEG after a verified root: 1 exactly for ROOT_NEG (R153). -/
def RootCheck.negFlag (v : RootCheck) : Bool := decide (v = .neg)

/-- `irq = IE and (DONE or FLT)`, a pure function of state (R212). -/
def State.irq (s : State) : Bool := s.ie && (s.done || s.flt)

end Sys2Proof.Machine
end

