-- ==== Sys2Proof/Machine/Ops.lean ====
section
/-! DEFINITION. The operations the commands and the bus share: the command life cycle (30_encoding.md R95 to
R97), the fault codes and taking a fault (60_exceptions.md R201 to R203), its acknowledgement (R214), the
groups of registers several rules clear, the reset (70_reset_and_hazards.md R240) and a draw (10_state.md R47). -/

namespace Sys2Proof.Machine

/-- The outcomes of a step of this machine. -/
abbrev Result := Host.Outcome State Fault Refusal

/-- The faults a command ends with, a row of R201 each. -/
inductive CommandFault where
  | illegalCommand
  | badModulus
  | noKey
  | badLength
  | setupFailure
  | invalidIdentity
  | verificationFailed
  | capExhausted
  | sequence
deriving DecidableEq, Repr

/-- CODE of each fault (R201). -/
def CommandFault.code : CommandFault → Byte
  | .illegalCommand => 0x01
  | .badModulus => 0x02
  | .noKey => 0x03
  | .badLength => 0x04
  | .setupFailure => 0x05
  | .invalidIdentity => 0x06
  | .verificationFailed => 0x07
  | .capExhausted => 0x07
  | .sequence => 0x08

/-- SUB of each fault (R201): non-zero only for the two causes of EXTRACT_FAILURE (R210). -/
def CommandFault.sub : CommandFault → Byte
  | .illegalCommand => 0
  | .badModulus => 0
  | .noKey => 0
  | .badLength => 0
  | .setupFailure => 0
  | .invalidIdentity => 0
  | .verificationFailed => 1
  | .capExhausted => 2
  | .sequence => 0

/-- Acceptance of a command word (R95). -/
def accept (w : Word) (s : State) : State :=
  { s with cmdr := w, done := false, flt := false, code := 0, sub := 0, busy := true }

/-- `done`, the normal end of a command (R202). -/
def complete (s : State) : State := { s with busy := false, done := true }

/-- `raise Fault(code, sub)`, the abnormal end of a command (R203): the block's taking of an exception. The
command's rule has cleared its result registers in `s` already. -/
def raiseFault (k : CommandFault) (s : State) : State :=
  { s with busy := false, flt := true, code := k.code, sub := k.sub }

/-- A host write to STATUS (10_state.md R33): the acknowledgement of a completion or a fault, which is all the
return from one that the block has (R214). -/
def acknowledge (v : Word) (s : State) : State :=
  { s with done := s.done && !v.getLsbD 1, flt := s.flt && !v.getLsbD 2, accErr := s.accErr && !v.getLsbD 7 }

/-- ACCERR <- 1, all that a refused access changes (20_memory.md R68 to R70). -/
def refuseAccess (s : State) : State := { s with accErr := true }

/-- The end of a PKG instance and of its session: `SK <- 0; P <- 0; Q <- 0; XACT <- 0` (10_state.md R50). -/
def dropKey (s : State) : State := { s with sk := false, p := 0, q := 0, xact := false }

/-- `J <- 0; ACC <- 0; NEG <- 0; R <- 0`, the results of an extraction (43_sqrt_extract.md R156, R158). -/
def clearResults (s : State) : State := { s with j := .zero, acc := false, neg := false, r := 0 }

/-- `J <- v` (40_jacobi.md R112). -/
def setJ (v : JacobiValue) (s : State) : State := { s with j := v }

/-- `R <- v` (41_modexp.md R122). -/
def setR (v : Nat) (s : State) : State := { s with r := big v }

/-- Assertion of `rst` (R240): the reset state of 10_state.md R48, all at once. The agents outside the block
keep theirs: the random source is not reset (R241), the events still to come stay to come. -/
def applyReset (s : State) : State :=
  { State.reset with port := s.port, inputs := s.inputs, rdata := s.rdata }

/-- `Draw(k)` (R47): a natural number below `2^k` and the port after it, or `none` when the random source does
not answer (R252). -/
def RandomPort.draw (k : Nat) (port : RandomPort) : Option (Nat × RandomPort) :=
  match port.answers with
  | v :: rest => some (v.toNat % 2 ^ k, { port with answers := rest, taken := port.taken + 1 })
  | [] =>
    if port.silent then none
    else some ((Config.randomAnswer port.taken).toNat % 2 ^ k, { port with taken := port.taken + 1 })

/-- The port after `k` more answers that nothing keeps (70_reset_and_hazards.md R243). -/
def RandomPort.skip (k : Nat) (port : RandomPort) : RandomPort :=
  { port with answers := port.answers.drop k, taken := port.taken + k }

end Sys2Proof.Machine
end

