-- ==== Sys2Proof/Machine/Bus.lean ====
section
/-! DEFINITION. The two host transactions on the register space (20_memory.md R63, R64). The checks stand in the
order of those rules; an unmapped offset is found first here and refused with the same result either way. -/

namespace Sys2Proof.Machine

/-- An access the block performs at all: 32 bits wide, at a multiple of 4 (R62). -/
def wordAccess (off : Offset) (size : Nat) : Bool := decide (size = 4 ∧ off.toNat % 4 = 0)

/-- The registers the host may read while a command is in flight (R70). -/
def readableWhileBusy : Reg → Bool
  | .id | .status | .ctrl => true
  | _ => false

/-- The registers the host may write while a command is in flight (R70). -/
def writableWhileBusy : Reg → Bool
  | .status | .ctrl => true
  | _ => false

/-- What a read of a mapped register returns (R63): every one is readable (R69), none has a side effect (R72). -/
def readReg (s : State) : Reg → Word
  | .id => Config.idValue
  | .cmd => s.cmdr
  | .status => s.statusWord
  | .fault => s.faultWord
  | .ctrl => s.ctrlWord
  | .jres => s.j.word
  | .idlen => s.idlen
  | .iter => s.iter
  | .xcap => s.xcap
  | .scap => s.scap
  | .len => s.lenWord
  | .draws => s.draws
  | .limb x i => limb (s.bigReg x) i

/-- What a write to a mapped register does (R64); `none` for the read-only ones (R69). -/
def writeReg (s : State) (v : Word) : Reg → Option State
  | .cmd => some (accept v s)
  | .status => some (acknowledge v s)
  | .ctrl => some { s with ie := v.getLsbD 0 }
  | .idlen => some { s with idlen := v }
  | .xcap => some { s with xcap := v }
  | .scap => some { s with scap := v }
  | .limb .n i => some (dropKey { s with n := setLimb s.n i v })
  | .limb .a i => some { s with a := setLimb s.a i v }
  | .limb .e i => some { s with e := setLimb s.e i v }
  | .limb .r _ => none
  | .id => none
  | .fault => none
  | .jres => none
  | .iter => none
  | .len => none
  | .draws => none

/-- `BusRead(off, size)` (R63): the value returned and the state after. -/
def busRead (off : Offset) (size : Nat) (s : State) : Word × State :=
  if wordAccess off size = false then (0, refuseAccess s)
  else
    match regAt off.toNat with
    | none => (0, refuseAccess s)
    | some reg => if s.busy && !readableWhileBusy reg then (0, refuseAccess s) else (readReg s reg, s)

/-- `BusWrite(off, size, v)` (R64). -/
def busWrite (off : Offset) (size : Nat) (v : Word) (s : State) : State :=
  if wordAccess off size = false then refuseAccess s
  else
    match regAt off.toNat with
    | none => refuseAccess s
    | some reg =>
      if s.busy && !writableWhileBusy reg then refuseAccess s
      else
        match writeReg s v reg with
        | some t => t
        | none => refuseAccess s

end Sys2Proof.Machine
end

