-- ==== Sys2Proof/Machine/Control.lean ====
section
/-! DEFINITION. The control commands NOP and ZEROIZE (44_control.md). -/

namespace Sys2Proof.Machine

/-- NOP (R170). -/
def execNop (s : State) : Result := .next (complete s)

/-- The registers ZEROIZE clears (R171). -/
def wipe (s : State) : State :=
  { clearResults (dropKey s) with n := 0, a := 0, e := 0, idlen := 0, iter := 0, draws := 0 }

/-- ZEROIZE (R171). -/
def execZeroize (s : State) : Result := .next (complete (wipe s))

end Sys2Proof.Machine
end

