-- ==== Sys2Proof/Machine/Extract.lean ====
section
/-! DEFINITION. The SQRT, XINIT and XTRY commands (43_sqrt_extract.md). -/

namespace Sys2Proof.Machine

/-- The root of A under the key held: `r` of `RootAndVerify(A)` (R152). -/
def State.root (s : State) : Nat := blumRoot s.a.toNat s.p.toNat s.q.toNat s.n.toNat

/-- The verification of that root: `v` of `RootAndVerify(A)` (R152). -/
def State.rootCheck (s : State) : RootCheck := verify s.root s.a.toNat s.n.toNat

/-- `R <- 0; NEG <- 0` (R153, R158). -/
def dropRoot (s : State) : State := { s with r := 0, neg := false }

/-- `R <- r; NEG <- 1 if v = ROOT_NEG else 0` (R153, R158). -/
def storeRoot (s : State) : State := { s with r := big s.root, neg := s.rootCheck.negFlag }

/-- `ACC <- b` (R158). -/
def setAcc (b : Bool) (s : State) : State := { s with acc := b }

/-- `XACT <- b`: a session is opened or ended (10_state.md R51). -/
def setSession (b : Bool) (s : State) : State := { s with xact := b }

/-- `ITER <- 0; XACT <- 0; ACC <- 0; NEG <- 0; J <- 0; R <- 0`, the start of every XINIT (R156). -/
def clearSession (s : State) : State := { clearResults s with iter := 0, xact := false }

/-- The part of XTRY after its cap check: `ITER <- ITER + 1` and `J <- jacobi(A, N)` (R158). -/
def testCandidate (s : State) : State :=
  { s with iter := s.iter + 1, j := jacobi s.a.toNat s.n.toNat }

/-- SQRT (R153). -/
def execSqrt (s : State) : Result :=
  if s.sk = false then .next (raiseFault .noKey (dropRoot s))
  else if s.rootCheck = .fail then .next (raiseFault .verificationFailed (dropRoot s))
  else .next (complete (storeRoot s))

/-- XINIT (R156). -/
def execXinit (s : State) : Result :=
  if s.idlen = 0 then .next (raiseFault .invalidIdentity (clearSession s))
  else if s.sk = false then .next (raiseFault .noKey (clearSession s))
  else .next (complete (setSession true (clearSession s)))

/-- XTRY (R158); the cap check is R159. -/
def execXtry (s : State) : Result :=
  if s.xact = false then .next (raiseFault .sequence (clearResults s))
  else if s.xcap ≤ s.iter then .next (raiseFault .capExhausted (setSession false (clearResults s)))
  else
    let t := testCandidate s
    if t.j ≠ .plusOne then .next (complete (setAcc false (dropRoot t)))
    else if t.rootCheck = .fail then .next (raiseFault .verificationFailed (setSession false (clearResults t)))
    else .next (complete (setAcc true (storeRoot (setSession false t))))

end Sys2Proof.Machine
end

