-- ==== Sys2Proof/Machine/Jacobi.lean ====
section
/-! DEFINITION. The JACOBI command (40_jacobi.md). -/

namespace Sys2Proof.Machine

/-- JACOBI (R112). -/
def execJacobi (s : State) : Result :=
  if badModulus s.n.toNat then .next (raiseFault .badModulus (setJ .zero s))
  else .next (complete (setJ (jacobi s.a.toNat s.n.toNat) s))

end Sys2Proof.Machine
end

