-- ==== Sys2Proof/Machine/Modexp.lean ====
section
/-! DEFINITION. The MODEXP command (41_modexp.md). -/

namespace Sys2Proof.Machine

/-- MODEXP (R122). -/
def execModexp (s : State) : Result :=
  if badModulus s.n.toNat then .next (raiseFault .badModulus (setR 0 s))
  else .next (complete (setR (modexp s.a.toNat s.e.toNat s.n.toNat) s))

end Sys2Proof.Machine
end

