-- ==== Sys2Proof/Machine/Setup.lean ====
section
/-! DEFINITION. The SETUP command (42_blum_setup.md): the three nested loops of R133 to R135 over draws of the
random source, with the draw counter and the cap of R132. -/

namespace Sys2Proof.Machine

/-- What a running SETUP carries from draw to draw: the counter DRAWS (R132) and the random-source port. -/
structure DrawRun where
  draws : Nat
  port : RandomPort
deriving DecidableEq, Repr

/-- How a piece of SETUP that draws ends: with a value; at the cap, `raise Fault(SETUP_FAILURE, 0)` (R132); or
waiting for a draw that is not answered (70_reset_and_hazards.md R252). -/
inductive Attempt (α : Type) where
  | found (x : α) (run : DrawRun)
  | capReached (run : DrawRun)
  | unanswered (run : DrawRun)
deriving DecidableEq, Repr

/-- Go on with a found value; the two other ends end the whole command. -/
def Attempt.andThen {α β : Type} (m : Attempt α) (f : α → DrawRun → Attempt β) : Attempt β :=
  match m with
  | .found x run => f x run
  | .capReached run => .capReached run
  | .unanswered run => .unanswered run

/-- The answer `v` made a number of exactly `h` bits: bit `h − 1` forced to 1 (R132). -/
def forceTopBit (h v : Nat) : Nat := if v < 2 ^ (h - 1) then v + 2 ^ (h - 1) else v

/-- `DrawCandidate(h)` (R132). -/
def drawCandidate (scap h : Nat) (run : DrawRun) : Attempt Nat :=
  if scap ≤ run.draws then .capReached run
  else
    match run.port.draw h with
    | some (v, port) => .found (forceTopBit h v) { draws := run.draws + 1, port := port }
    | none => .unanswered run

/-- `BlumPrime(h)` (R134). Each turn takes a draw, so fuel above the number of draws left never runs out. -/
def blumPrime (scap h : Nat) : (fuel : Nat) → DrawRun → Attempt Nat
  | 0, run => .capReached run
  | fuel + 1, run =>
    (drawCandidate scap h run).andThen fun x run =>
      if nextPrime x % 4 = 3 then .found (nextPrime x) run else blumPrime scap h fuel run

/-- `q <- BlumPrime(h); while q = p: q <- BlumPrime(h)` (R135): only `q` is made again. -/
def distinctPrime (scap h p : Nat) : (fuel : Nat) → DrawRun → Attempt Nat
  | 0, run => .capReached run
  | fuel + 1, run =>
    (blumPrime scap h (scap + 1) run).andThen fun q run =>
      if q = p then distinctPrime scap h p fuel run else .found q run

/-- The outer loop of R133: a pair of distinct primes, made again as a whole until `bitlen(p·q) = L` (R136). -/
def primePair (scap L : Nat) : (fuel : Nat) → DrawRun → Attempt (Nat × Nat)
  | 0, run => .capReached run
  | fuel + 1, run =>
    (blumPrime scap (L / 2) (scap + 1) run).andThen fun p run =>
      (distinctPrime scap (L / 2) p (scap + 1) run).andThen fun q run =>
        if bitlen (p * q) = L then .found (p, q) run else primePair scap L fuel run

/-- The whole search of a SETUP of length `L`, from DRAWS = 0. -/
def searchKey (L : Nat) (s : State) : Attempt (Nat × Nat) :=
  primePair s.scap.toNat L (s.scap.toNat + 1) { draws := 0, port := s.port }

/-- What a SETUP that passes its length check clears at its start (R133, D20). -/
def clearInstance (s : State) : State := { clearResults (dropKey s) with n := 0, draws := 0 }

/-- DRAWS and the port as a run of draws left them. -/
def afterDraws (run : DrawRun) (s : State) : State :=
  { s with draws := BitVec.ofNat 32 run.draws, port := run.port }

/-- The commit of R137: `P <- p; Q <- q; N <- p·q; SK <- 1`. -/
def commitKey (p q : Nat) (s : State) : State :=
  { s with p := big p, q := big q, n := big (p * q), sk := true }

/-- The three ends of the search. A draw that is not answered leaves the command in flight: BUSY stays 1, nothing
the host can observe changes (R252), and the answers taken so far are taken (R243). -/
def endSetup (search : Attempt (Nat × Nat)) (s : State) : State :=
  match search with
  | .found (p, q) run => complete (commitKey p q (afterDraws run (clearInstance s)))
  | .capReached run => raiseFault .setupFailure (afterDraws run (clearInstance s))
  | .unanswered run => { s with port := run.port }

/-- SETUP (R133). -/
def execSetup (imm16 : Nat) (s : State) : Result :=
  let L := requestedLength imm16
  if badLength L then .next (raiseFault .badLength s)
  else .next (endSetup (searchKey L s) s)

end Sys2Proof.Machine
end

