-- ==== Sys2Proof/Machine/Dispatch.lean ====
section
/-! DEFINITION. One arm for each command of 30_encoding.md R92. -/

namespace Sys2Proof.Machine

/-- Execution of a decoded command, from its acceptance state to its end (R96, R97). -/
def exec (i : Instr) (s : State) : Host.Outcome State Fault Refusal :=
  match i with
  | .nop => Sys2Proof.Machine.execNop s
  | .jacobi => Sys2Proof.Machine.execJacobi s
  | .modexp => Sys2Proof.Machine.execModexp s
  | .sqrt => Sys2Proof.Machine.execSqrt s
  | .setup imm16 => Sys2Proof.Machine.execSetup imm16 s
  | .xinit => Sys2Proof.Machine.execXinit s
  | .xtry => Sys2Proof.Machine.execXtry s
  | .zeroize => Sys2Proof.Machine.execZeroize s

end Sys2Proof.Machine
end

