-- ==== Sys2Proof/Machine/Engine.lean ====
section
/-! DEFINITION. The agents' turns (00_scope.md R15): the engine's one step (30_encoding.md R96) and the events of
the total order of 20_memory.md R73. -/

namespace Sys2Proof.Machine

/-- The engine's turn (R96): while BUSY = 1, execute `Decode(CMDR)`; an illegal word ends with ILLEGAL_COMMAND
(R204). While BUSY = 0 the engine has no enabled step. -/
def engineTurn (s : State) : Result :=
  if s.busy then
    match decode s.cmdr with
    | .ok i => exec i s
    | .error _ => .next (raiseFault .illegalCommand s)
  else .next s

/-- The draws answered in a SETUP of length `L` executed to its end, or to the draw that is not answered. -/
def drawsOfSetup (L : Nat) (s : State) : Nat :=
  if badLength L then 0
  else
    match searchKey L s with
    | .found _ run => run.draws
    | .capReached run => run.draws
    | .unanswered run => run.draws

/-- The most answers the command in flight can have consumed: only SETUP draws (10_state.md R47). -/
def drawsInFlight (s : State) : Nat :=
  if s.busy then
    match decode s.cmdr with
    | .ok (.setup imm16) => drawsOfSetup (requestedLength imm16) s
    | _ => 0
  else 0

/-- The reset input (70_reset_and_hazards.md R240) while the command in flight, if any, had consumed `consumed`
answers: they stay consumed (R243), and the random source itself is not reset (R241). -/
def resetInput (consumed : Nat) (s : State) : State :=
  applyReset { s with port := s.port.skip (min consumed (drawsInFlight s)) }

/-- One event of the total order of R73. A read's value goes to `rdata`, where the host finds it. -/
def serve (s : State) : Input → Result
  | .read off size => .next { (busRead off size s).2 with rdata := (busRead off size s).1 }
  | .write off size v => .next (busWrite off size v s)
  | .rst consumed => .next (resetInput consumed s)
  | .engine => engineTurn s
  | .idle => .next s

/-- One step of the machine: the next event, or, when no event is left, the engine's turn (R255: an accepted
command is executed after a finite time). -/
def advance (s : State) : Result :=
  match s.inputs with
  | [] => engineTurn s
  | i :: rest => serve { s with inputs := rest } i

/-- The state in which `w` has been accepted and no event comes before the engine's turn. -/
def withCommand (w : Word) (s : State) : State := { accept w s with inputs := [] }

end Sys2Proof.Machine
end

