-- ==== Sys2Proof/Machine/Step.lean ====
section
/-! DEFINITION. The step function, and the placing of a command word where the next step executes it. -/

namespace Sys2Proof.Machine

/-- One step of the machine: one event of the total order of 20_memory.md R73. -/
def step (s : State) : Host.Outcome State Fault Refusal := advance s

/-- `s` with a row's command word accepted (30_encoding.md R95) and the engine's turn next (R96): the block fetches
nothing (10_state.md R28), its command is the data of the write to CMD (20_memory.md R78). Log entry 1. -/
def State.withFetchWord (s : State) (nbits w : Nat) : State := withCommand (tableWord nbits w) s

end Sys2Proof.Machine
end

