-- ==== Sys2Proof/Machine/HostScript.lean ====
section
/-! DEFINITION. The host agent's side (00_scope.md R15): the host-script statements of 30_encoding.md R103, each
expanding to bus transactions and nothing else, and the host sequences of 45_host_sequences.md (R180 to R188)
written with them. None of this is the block: no definition the block's step uses stands here. DESIGN CHOICE (log
entry 9): the host's open parameters are constants without a body, its random draws are explicit answers and then free
values, and a list says how often each `wait` polls before the engine's turn. DESIGN CHOICE (log entry 14): what the
sequences do with operands the spec excludes. -/

namespace Sys2Proof.Machine

/-- One event delivered to the block on its own. The block answers every event with a next state. -/
def deliver (i : Input) (s : State) : State :=
  match serve s i with
  | .next t => t
  | .fault _ => s
  | .refused _ => s

/-- The 12-bit byte offset of a register. -/
def busOffset (reg : Reg) : Offset := BitVec.ofNat 12 reg.offset

/-- `wr REG, v` (R103). -/
def hostWrite (reg : Reg) (v : Word) (s : State) : State := deliver (.write (busOffset reg) 4 v) s

/-- `rd REG` (R103): the value read, and the state after. -/
def hostRead (reg : Reg) (s : State) : Word × State :=
  let t := deliver (.read (busOffset reg) 4) s
  (t.rdata, t)

/-- `limb(v, i)` of a number the host holds (00_scope.md R9). -/
def limbOf (v i : Nat) : Word := BitVec.ofNat 32 (v / 2 ^ (32 * i))

/-- The first `k` limb writes of `wrbig X, v` (R103), in rising order. -/
def hostWriteLimbs (x : BigReg) (v : Nat) : (k : Nat) → State → State
  | 0, s => s
  | k + 1, s => hostWrite (.limb x k) (limbOf v k) (hostWriteLimbs x v k s)

/-- `wrbig X, v` (R103): all 128 limbs are written. Of a `v` of 2^4096 or more, which no sequence of the spec has, that is
the low 4096 bits: DESIGN CHOICE (log entry 14). -/
def hostWriteBig (x : BigReg) (v : Nat) (s : State) : State := hostWriteLimbs x v Config.NL s

/-- The first `k` limb reads of `rdbig X` (R103), in rising order, and `Σ word_i · 2^(32·i)` of their values. -/
def hostReadLimbs (x : BigReg) : (k : Nat) → State → Nat × State
  | 0, s => (0, s)
  | k + 1, s =>
    let (low, s) := hostReadLimbs x k s
    let (w, s) := hostRead (.limb x k) s
    (low + w.toNat * 2 ^ (32 * k), s)

/-- `rdbig X` (R103). -/
def hostReadBig (x : BigReg) (s : State) : Nat × State := hostReadLimbs x Config.NL s

/-- `cmd MNEMONIC [imm]` (R103, R99). -/
def hostCommand (i : Instr) (s : State) : State := hostWrite .cmd (encode i) s

/-- A host at work on one block. `polls` says, for each `wait` still to come, how many polls find the command in flight
before the engine takes its turn (70_reset_and_hazards.md R255: any finite number; 0 after the end of the list).
`draws` are the explicit answers of the host's own random source (R187), `drawn` the number of answers it has given.
DESIGN CHOICE (log entry 9). -/
structure HostState where
  block : State
  polls : List Nat
  draws : List Nat
  drawn : Nat
deriving DecidableEq, Repr

/-- How a host sequence ends: with a value, or polling for ever a block whose random source never answers
(70_reset_and_hazards.md R252). -/
inductive HostOutcome (α : Type) where
  | done (x : α) (h : HostState)
  | polling (h : HostState)
deriving DecidableEq, Repr

/-- Go on after a sequence that ends. -/
def HostOutcome.andThen {α β : Type} (m : HostOutcome α) (f : α → HostState → HostOutcome β) : HostOutcome β :=
  match m with
  | .done x h => f x h
  | .polling h => .polling h

/-- Bus writes by the host. -/
def hostDo (f : State → State) (h : HostState) : HostState := { h with block := f h.block }

/-- Bus reads by the host. -/
def hostGet {α : Type} (f : State → α × State) (h : HostState) : α × HostState :=
  ((f h.block).1, { h with block := (f h.block).2 })

/-- `repeat rd STATUS until STATUS[0] = 0`: the value is whether the loop ends. The first `idle` polls come before the
engine's turn, and each tests BUSY. A poll that finds BUSY = 1 after the engine's turn finds a draw that is never
answered: every later turn of the engine is the same, and the loop goes on for ever. -/
def pollStatus : (idle : Nat) → State → Bool × State
  | 0, s =>
    let (w, s) := hostRead .status (deliver .engine s)
    (!w.getLsbD 0, s)
  | idle + 1, s =>
    let (w, s) := hostRead .status (deliver .idle s)
    if w.getLsbD 0 then pollStatus idle s else (true, s)

/-- `wait` (R103). -/
def hostWait (h : HostState) : HostOutcome Unit :=
  let (ended, block) := pollStatus (h.polls.headD 0) h.block
  if ended then .done () { h with block := block, polls := h.polls.tail }
  else .polling { h with block := block, polls := h.polls.tail }

/-- `cmd I; wait`. -/
def hostRun (i : Instr) (h : HostState) : HostOutcome Unit := hostWait (hostDo (hostCommand i) h)

/-- `PKG_SETUP L` (R181): the word of FAULT on a failure, else the public modulus and LEN. An `L` of 2^16 or more has no
command word: DESIGN CHOICE (log entry 14). -/
def pkgSetup (L : Nat) (h : HostState) : HostOutcome (Except Word (Nat × Word)) :=
  (hostRun (.setup L) h).andThen fun _ h =>
    let (status, h) := hostGet (hostRead .status) h
    if status.getLsbD 2 then
      let (w, h) := hostGet (hostRead .fault) h
      .done (.error w) h
    else
      let (n, h) := hostGet (hostReadBig .n) h
      let (len, h) := hostGet (hostRead .len) h
      .done (.ok (n, len)) h

/-- `LOAD_PUBLIC n` (R182), for `n < 2^4096`; DESIGN CHOICE beyond (log entry 14). -/
def loadPublic (n : Nat) (s : State) : State := hostWriteBig .n n s

/-- The two words `JAC` reads (R185): FLT of STATUS tells a symbol of 0 from a refused modulus. -/
structure JacReading where
  status : Word
  jres : Word
deriving DecidableEq, Repr

/-- `JAC x` (R185), for `x < 2^4096`; DESIGN CHOICE beyond (log entry 14). -/
def jac (x : Nat) (h : HostState) : HostOutcome JacReading :=
  (hostRun .jacobi (hostDo (hostWriteBig .a x) h)).andThen fun _ h =>
    let (status, h) := hostGet (hostRead .status) h
    let (jres, h) := hostGet (hostRead .jres) h
    .done { status := status, jres := jres } h

/-- What the host may be asked to extract a key for (R183, R184): nothing at all, bytes, or a text. -/
inductive Identity where
  | absent
  | bytes (b : List Byte)
  | text (t : String)
deriving DecidableEq, Repr

/-- The identity's bytes; none for an absent one and for the empty text (R184). -/
def Identity.toBytes : Identity → List Byte
  | .absent => []
  | .bytes b => b
  | .text t => if t = "" then [] else Config.textEncoding t

/-- What `EXTRACT` writes to IDLEN: `min(len(identity), 0xFFFFFFFF)` (R184). -/
def Identity.lengthWord (identity : Identity) : Word := BitVec.ofNat 32 (min identity.toBytes.length 0xFFFFFFFF)

/-- `candidate_0` of R183: the identity's bytes as a big-endian number. -/
def identityNumber (identity : List Byte) : Nat := identity.foldl (fun acc b => acc * 256 + b.toNat) 0

/-- One rehash of R183, over the open parameters of the host. -/
def rehash (c : Nat) : Nat := Config.digestToInt (Config.hash (Config.hexForm c))

/-- How `EXTRACT` ends (R184): a key `(r, a)` with NEG, the word of FAULT, or, DESIGN CHOICE (log entry 14), a
candidate that does not fit A: "a hash wider than `W` bits cannot be used with this block" (R183). -/
inductive Extraction where
  | key (r a : Nat) (neg : Bool)
  | failed (fault : Word)
  | hashTooWide (candidate : Nat)
deriving DecidableEq, Repr

/-- The `repeat … until FLT or ACC` loop of R184, on the candidates after `c`. Every turn accepts, faults or adds
1 to ITER, so fuel above XCAP never runs out, and the answer without fuel is never given (log entry 9). A candidate of 2^4096 or more is not offered to the block: the host stops
(DESIGN CHOICE, log entry 14). -/
def extractLoop (next : Nat → Nat) : (fuel c : Nat) → HostState → HostOutcome Extraction
  | 0, _, h => .done (.failed 0) h
  | fuel + 1, c, h =>
    let c := next c
    if 2 ^ Config.W ≤ c then .done (.hashTooWide c) h
    else
      (hostRun .xtry (hostDo (hostWriteBig .a c) h)).andThen fun _ h =>
        let (status, h) := hostGet (hostRead .status) h
        if status.getLsbD 2 then
          let (w, h) := hostGet (hostRead .fault) h
          .done (.failed w) h
        else if status.getLsbD 4 then
          let (r, h) := hostGet (hostReadBig .r) h
          let (status, h) := hostGet (hostRead .status) h
          .done (.key r c (status.getLsbD 5)) h
        else extractLoop next fuel c h

/-- `EXTRACT identity` (R184) over a given rehash function. -/
def extractWith (next : Nat → Nat) (identity : Identity) (h : HostState) : HostOutcome Extraction :=
  (hostRun .xinit (hostDo (hostWrite .idlen identity.lengthWord) h)).andThen fun _ h =>
    let (status, h) := hostGet (hostRead .status) h
    if status.getLsbD 2 then
      let (w, h) := hostGet (hostRead .fault) h
      .done (.failed w) h
    else extractLoop next (h.block.xcap.toNat + 1) (identityNumber identity.toBytes) h

/-- `EXTRACT identity` (R184) with the host's configured hash. -/
def extract (identity : Identity) (h : HostState) : HostOutcome Extraction := extractWith rehash identity h

/-- The bits of a byte, most significant first (R186). -/
def bitsOfByte (b : Byte) : List Bool := (List.range 8).map fun j => b.getLsbD (7 - j)

/-- The bits of a message in order (R186). -/
def bitsOfMessage (m : List Byte) : List Bool := m.flatMap bitsOfByte

/-- A bit's polarity, 0 → −1, 1 → +1 (R186). -/
def polarity (bit : Bool) : JacobiValue := if bit then .plusOne else .minusOne

/-- The bit of a recovered value: negative → 0, non-negative → 1 (R186, R188), on the word read from JRES. -/
def bitOfJres (w : Word) : Bool := decide (w ≠ 0xFFFFFFFF)

/-- A byte from its bits, most significant first. -/
def byteOfBits (bits : List Bool) : Byte := BitVec.ofNat 8 (bits.foldl (fun acc b => 2 * acc + b.toNat) 0)

/-- Bytes from bits in order (R186); the number of bits must be a multiple of 8. -/
def messageOfBits : List Bool → Option (List Byte)
  | [] => some []
  | b0 :: b1 :: b2 :: b3 :: b4 :: b5 :: b6 :: b7 :: rest =>
    (messageOfBits rest).map (byteOfBits [b0, b1, b2, b3, b4, b5, b6, b7] :: ·)
  | _ => none

/-- The extended Euclid loop behind `inv`: remainders `r0`, `r1` and the factors `t0`, `t1` of `t` in them. -/
def inverseLoop : (fuel r0 r1 : Nat) → (t0 t1 : Int) → Nat × Int
  | 0, r0, _, t0, _ => (r0, t0)
  | fuel + 1, r0, r1, t0, t1 =>
    if r1 = 0 then (r0, t0) else inverseLoop fuel r1 (r0 % r1) t1 (t0 - (r0 / r1 : Nat) * t1)

/-- `inv(t, n)`, the modular inverse of the host's arithmetic (R187); `none` when `t` has none. -/
def inverse (t n : Nat) : Option Nat :=
  let (g, f) := inverseLoop (n + 1) n (t % n) 0 1
  if g = 1 then some (f % n).toNat else none

/-- One draw of the host from `[0, n)` (R187), from its own random source: an explicit answer, or a free value. An
answer stands for its remainder modulo `n`, so that no draw is out of range. -/
def hostDraw (n : Nat) (h : HostState) : Nat × HostState :=
  match h.draws with
  | t :: rest => (t % n, { h with draws := rest, drawn := h.drawn + 1 })
  | [] => (Config.hostAnswer h.drawn % n, { h with drawn := h.drawn + 1 })

/-- One redraw loop of R187, of at most `cap` turns (`ENC_CAP`): the first draw with the wanted symbol that is not
`avoid` and has an inverse, and that inverse; `none` when the cap is reached. -/
def drawWitness (n : Nat) (m : JacobiValue) (avoid : Option Nat) :
    (cap : Nat) → HostState → HostOutcome (Option (Nat × Nat))
  | 0, h => .done none h
  | cap + 1, h =>
    let (t, h) := hostDraw n h
    (jac t h).andThen fun reading h =>
      match inverse t n with
      | some inv =>
        if reading.jres = m.word ∧ avoid ≠ some t then .done (some (t, inv)) h else drawWitness n m avoid cap h
      | none => drawWitness n m avoid cap h

/-- `ENCRYPT_BIT m, a` (R187) on a block that holds `n`: the pair `(c1, c2)`. -/
def encryptBit (cap n : Nat) (m : JacobiValue) (a : Nat) (h : HostState) : HostOutcome (Option (Nat × Nat)) :=
  (drawWitness n m none cap h).andThen fun first h =>
    match first with
    | none => .done none h
    | some (t1, i1) =>
      (drawWitness n m (some t1) cap h).andThen fun second h =>
        match second with
        | none => .done none h
        | some (t2, i2) => .done (some ((t1 + a * i1) % n, (t2 + negMod (a * i2) n) % n)) h

/-- The ciphertext of a list of polarities: "the ordered list of (c1, c2) pairs, one per plaintext bit, in the same
order as the plaintext bits" (R187). -/
def encryptBits (cap n a : Nat) : List JacobiValue → HostState → HostOutcome (Option (List (Nat × Nat)))
  | [], h => .done (some []) h
  | m :: ms, h =>
    (encryptBit cap n m a h).andThen fun pair h =>
      match pair with
      | none => .done none h
      | some pair =>
        (encryptBits cap n a ms h).andThen fun rest h => .done (rest.map (pair :: ·)) h

/-- `encrypt(message, a, n)` (R187) with a given cap, on a block that holds `n`. -/
def encryptWith (cap : Nat) (message : List Byte) (a n : Nat) (h : HostState) :
    HostOutcome (Option (List (Nat × Nat))) :=
  encryptBits cap n a ((bitsOfMessage message).map polarity) h

/-- `encrypt(message, a, n)` (R187) with the host's `ENC_CAP`. -/
def encrypt (message : List Byte) (a n : Nat) (h : HostState) : HostOutcome (Option (List (Nat × Nat))) :=
  encryptWith Config.encCap message a n h

/-- `MODEXP` of `x` to the power `k` on the modulus N holds, as `DECRYPT_BIT` uses it (R188). -/
def hostPower (x k : Nat) (h : HostState) : HostOutcome Nat :=
  (hostRun .modexp (hostDo (hostWriteBig .e k) (hostDo (hostWriteBig .a x) h))).andThen fun _ h =>
    let (r, h) := hostGet (hostReadBig .r) h
    .done r h

/-- `DECRYPT_BIT (c1, c2), r, a` (R188) on a block that holds `n`. -/
def decryptBit (n c1 c2 r a : Nat) (h : HostState) : HostOutcome Bool :=
  (hostPower r 2 h).andThen fun square h =>
    (hostPower a 1 h).andThen fun reduced h =>
      let x := if square = reduced then (c1 + 2 * r) % n else (c2 + 2 * r) % n
      (jac x h).andThen fun reading h => .done (bitOfJres reading.jres) h

/-- The bits of a ciphertext, pair by pair in order (R188). -/
def decryptBits (n r a : Nat) : List (Nat × Nat) → HostState → HostOutcome (List Bool)
  | [], h => .done [] h
  | (c1, c2) :: pairs, h =>
    (decryptBit n c1 c2 r a h).andThen fun bit h =>
      (decryptBits n r a pairs h).andThen fun bits h => .done (bit :: bits) h

/-- `decrypt(ciphertext, r, a, n)` (R188): the bytes in original order; `none` when the number of pairs is no multiple
of 8, for which no byte string is defined (R186). -/
def decrypt (ciphertext : List (Nat × Nat)) (r a n : Nat) (h : HostState) : HostOutcome (Option (List Byte)) :=
  (decryptBits n r a ciphertext h).andThen fun bits h => .done (messageOfBits bits) h

end Sys2Proof.Machine
end

