-- ==== Sys2Proof/Safety.lean ====
section
/-! DEFINITION. What counts as a safe state and a safe run of the block: the invariants the rules state of every
state the block can be in, what a host can see, and the secret it must not see. -/

namespace Sys2Proof.Machine

/-- `bitlen(n) = L` for `n ≥ 1`, in the words of 00_scope.md R8: `2^(L−1) ≤ n < 2^L`. -/
def HasLength (n L : Nat) : Prop := 2 ^ (L - 1) ≤ n ∧ n < 2 ^ L

/-- What SK = 1 says of P, Q and N (10_state.md R27, with `PRIME_TEST` exact): a Blum integer of even bit length
that fits its register. -/
structure BlumKey (p q n : Nat) : Prop where
  primeP : p.Prime
  primeQ : q.Prime
  residueP : p % 4 = 3
  residueQ : q % 4 = 3
  distinct : p ≠ q
  product : n = p * q
  length : ∃ L, L % 2 = 0 ∧ L ≤ Config.W ∧ HasLength n L

/-- The Legendre symbol `leg(a, p)` as 40_jacobi.md R110 defines it, for an odd prime `p`. -/
def legendre (a p : Nat) : Int :=
  if a % p = 0 then 0 else if ∃ x, x < p ∧ x * x % p = a % p then 1 else -1

/-- The Jacobi symbol as R110 defines it: the product of Legendre symbols over the prime factors of an odd `n`,
each as often as it divides `n`. -/
def jacobiProduct (a n : Nat) : Int := (n.primeFactorsList.map (legendre a)).prod

/-- The number a draw's answer stands for as a candidate of `h` bits: its low `h − 1` bits below a top bit of 1
(42_blum_setup.md R132). -/
def candidateOf (h : Nat) (answer : BitVec Config.portBits) : Nat := 2 ^ (h - 1) + answer.toNat % 2 ^ (h - 1)

/-- `p` is the least prime strictly above `x` (R131). -/
def LeastPrimeAbove (x p : Nat) : Prop := p.Prime ∧ x < p ∧ ∀ y, x < y → y < p → ¬ y.Prime

/-- `BlumPrime(h)` of 42_blum_setup.md R134 on exactly these answers of the random source: a candidate's next prime that
is not 3 modulo 4 is dropped, the first that is 3 modulo 4 is the result. -/
inductive DrawsMakePrime (h : Nat) : List (BitVec Config.portBits) → Nat → Prop where
  | accept {answer : BitVec Config.portBits} {c : Nat} :
    LeastPrimeAbove (candidateOf h answer) c → c % 4 = 3 → DrawsMakePrime h [answer] c
  | drop {answer : BitVec Config.portBits} {c p : Nat} {answers : List (BitVec Config.portBits)} :
    LeastPrimeAbove (candidateOf h answer) c → c % 4 ≠ 3 → DrawsMakePrime h answers p →
    DrawsMakePrime h (answer :: answers) p

/-- The making of the second prime beside `p` (R135) on exactly these answers: one equal to `p` is made again, `p` is
kept. -/
inductive DrawsMakeOtherPrime (h p : Nat) : List (BitVec Config.portBits) → Nat → Prop where
  | accept {answers : List (BitVec Config.portBits)} {q : Nat} :
    DrawsMakePrime h answers q → q ≠ p → DrawsMakeOtherPrime h p answers q
  | again {answers more : List (BitVec Config.portBits)} {q : Nat} :
    DrawsMakePrime h answers p → DrawsMakeOtherPrime h p more q → DrawsMakeOtherPrime h p (answers ++ more) q

/-- The outer loop of R133 and R136 on exactly these answers: a pair whose product has not the length `L` is discarded
whole. -/
inductive DrawsMakeKey (L : Nat) : List (BitVec Config.portBits) → Nat → Nat → Prop where
  | accept {first second : List (BitVec Config.portBits)} {p q : Nat} :
    DrawsMakePrime (L / 2) first p → DrawsMakeOtherPrime (L / 2) p second q → HasLength (p * q) L →
    DrawsMakeKey L (first ++ second) p q
  | discard {first second more : List (BitVec Config.portBits)} {p' q' p q : Nat} :
    DrawsMakePrime (L / 2) first p' → DrawsMakeOtherPrime (L / 2) p' second q' → ¬ HasLength (p' * q') L →
    DrawsMakeKey L more p q → DrawsMakeKey L (first ++ second ++ more) p q

/-- No key comes out of the answers within the cap: neither of all of them nor of their first `SCAP` or fewer. -/
def NoKeyWithin (L scap : Nat) (answers : List (BitVec Config.portBits)) : Prop :=
  ∀ used p q, used <+: answers → used.length ≤ scap → ¬ DrawsMakeKey L used p q

/-- The (CODE, SUB) pairs of 60_exceptions.md R201; no other is ever produced. -/
def legalFaultFields (code sub : Byte) : Prop :=
  (code = 0 ∧ sub = 0) ∨ ∃ k : CommandFault, code = k.code ∧ sub = k.sub

/-- The invariant of the block's state.
`key`, `noKey`: 10_state.md R27. `session`: an open session implies a key (43_sqrt_extract.md R155).
`lifeCycle`: at most one of BUSY, DONE, FLT is 1 (R33). `faultCode`: FLT = 1 implies CODE ≠ 0 (R34).
`cleanCode`: CODE and SUB stay 0 from acceptance to a normal end (60_exceptions.md R202).
`legalFault`: only the codes of R201 appear. -/
structure Invariant (s : State) : Prop where
  key : s.sk = true → BlumKey s.p.toNat s.q.toNat s.n.toNat
  noKey : s.sk = false → s.p = 0 ∧ s.q = 0
  session : s.xact = true → s.sk = true
  lifeCycle : (s.busy = true → s.done = false ∧ s.flt = false) ∧ (s.done = true → s.flt = false)
  faultCode : s.flt = true → s.code ≠ 0
  cleanCode : s.busy = true ∨ s.done = true → s.code = 0 ∧ s.sub = 0
  legalFault : legalFaultFields s.code s.sub

/-- What a host can observe of a state: the value of every read and the interrupt line. -/
def SameHostView (s t : State) : Prop :=
  s.irq = t.irq ∧ ∀ off size, (busRead off size s).1 = (busRead off size t).1

/-- Two states that differ at most in the hidden registers P and Q (10_state.md R26). -/
def DifferOnlyInSecrets (s t : State) : Prop := t = { s with p := t.p, q := t.q }

/-- The engine is the next to act: no event comes before its turn. -/
def EngineNext (s : State) : Prop := s.inputs = [] ∨ ∃ rest, s.inputs = .engine :: rest

/-- Every draw is answered: the fairness assumption of 70_reset_and_hazards.md R252. -/
def DrawsAnswered (s : State) : Prop := s.port.silent = false

/-- A safe run: `k` steps from `s`, none of which stops, end in a state with the invariant. -/
def SafeRun (k : Nat) (s : State) : Prop := ∃ t, Sys2Proof.core.run k s = .next t ∧ Invariant t

end Sys2Proof.Machine
end

