-- ==== Sys2Proof/Certificates/Slice0/Obligations.lean ====
section
/-! DEFINITION. The statements about the block, from the numbered rules of spec/. -/

open Sys2Proof Sys2Proof.Machine

/-! ### Reset -/

/-- 10_state.md R48, field by field, with what ID and LEN read and what the arithmetic commands then do. -/
def Obligations.ResetGivesEveryFieldItsValue : Prop :=
  let s := State.reset
  (s.n = 0 ∧ s.a = 0 ∧ s.e = 0 ∧ s.r = 0 ∧ s.p = 0 ∧ s.q = 0) ∧
  (s.sk = false ∧ s.acc = false ∧ s.neg = false ∧ s.xact = false ∧ s.j.toInt = 0) ∧
  (s.busy = false ∧ s.done = false ∧ s.flt = false ∧ s.accErr = false ∧ s.ie = false) ∧
  (s.cmdr = 0 ∧ s.code = 0 ∧ s.sub = 0 ∧ s.idlen = 0 ∧ s.iter = 0 ∧ s.draws = 0) ∧
  (s.xcap.toNat = 10000 ∧ s.scap.toNat = 10000) ∧
  ((busRead 0x000 4 s).1 = 0x4D535245 ∧ (busRead 0x028 4 s).1 = 0) ∧
  exec .jacobi s = .next { s with flt := true, code := 0x02 } ∧
  exec .modexp s = .next { s with flt := true, code := 0x02 } ∧
  exec .sqrt s = .next { s with flt := true, code := 0x03 }

/-- 70_reset_and_hazards.md R240, R241, R243: whatever is in flight, `rst` leaves the reset state of the block; the
random source is not reset, the answers a SETUP in flight had consumed stay consumed, at most as many as it takes when it
is executed, and with no SETUP in flight no answer is consumed. The events to come, the source and the bus value are the
model's own fields (log entries 2 and 3). -/
def Obligations.ResetInputDiscardsEverything : Prop :=
  ∀ (s : State) (consumed : Nat) (rest : List Input), s.inputs = .rst consumed :: rest →
    ∃ used,
      ((s.busy = false ∨ ∀ imm16, decode s.cmdr ≠ .ok (.setup imm16)) → used = 0) ∧
      (∀ imm16 t, s.busy = true → decode s.cmdr = .ok (.setup imm16) → exec (.setup imm16) s = .next t →
        used = min consumed (t.port.taken - s.port.taken)) ∧
      step s = .next
        { State.reset with
          inputs := rest, rdata := s.rdata
          port := { answers := s.port.answers.drop used, taken := s.port.taken + used, silent := s.port.silent } }

/-! ### The command life cycle -/

/-- 30_encoding.md R95: acceptance, or the refusal of a command word while one is in flight. -/
def Obligations.CommandWriteIsAcceptedOnlyWhenIdle : Prop :=
  ∀ (s : State) (w : Word), busWrite 0x004 4 w s =
    if s.busy then { s with accErr := true }
    else { s with cmdr := w, done := false, flt := false, code := 0, sub := 0, busy := true }

/-- 30_encoding.md R96: with a command in flight and the engine next, a step is the execution of the decoded
command; taking the engine's event off the list is all the step adds. -/
def Obligations.StepRunsTheDecodedCommand : Prop :=
  ∀ (s : State) (i : Instr), s.busy = true → decode s.cmdr = .ok i →
    (s.inputs = [] → step s = exec i s) ∧
    ∀ rest, s.inputs = .engine :: rest → step s = exec i { s with inputs := rest }

/-- 60_exceptions.md R204, 30_encoding.md R96: the engine's turn on an illegal word ends with ILLEGAL_COMMAND and changes
nothing else. That an empty list of events is the engine's turn, and that the turn takes its event off the list, is the
model's choice (log entry 2). -/
def Obligations.IllegalWordEndsInItsFault : Prop :=
  ∀ (s : State) (why : Illegal), s.busy = true → EngineNext s → decode s.cmdr = .error why →
    step s = .next { s with inputs := s.inputs.tail, busy := false, flt := true, code := 0x01, sub := 0 }

/-- 30_encoding.md R97 under the fairness assumption of R252: the engine's turn ends the command in exactly one of
the two ways. -/
def Obligations.CommandEndsInDoneOrFault : Prop :=
  ∀ s : State, s.busy = true → s.done = false → s.flt = false → EngineNext s → DrawsAnswered s →
    ∃ t, step s = .next t ∧ t.busy = false ∧ t.done = !t.flt

/-- No step stops the machine: every event and every command has a next state (60_exceptions.md R214: a fault
leaves the block fully usable). -/
def Obligations.EveryStepHasANextState : Prop := ∀ s : State, ∃ t, step s = .next t

/-! ### Encoding -/

/-- Decoding the word of a well-formed command, as a word and as byte lanes, gives the command back. -/
def Obligations.DecodeOfEncodeIsTheCommand : Prop :=
  ∀ i : Instr, i.wellFormed = true → decode (encode i) = .ok i ∧ decodeLanes (lanesOfWord (encode i)) = .ok i

/-- Every legal word has one meaning: it is the word of the command it decodes to. -/
def Obligations.EncodeOfDecodeIsTheWord : Prop :=
  ∀ (w : Word) (i : Instr), decode w = .ok i → i.wellFormed = true ∧ encode i = w

/-- 30_encoding.md R94, 60_exceptions.md R204: exactly the words the rule calls illegal are refused by the decoder;
such a word is accepted and ends with ILLEGAL_COMMAND, no other state changed; every other word decodes to the
command its `op` field selects, with its immediate. -/
def Obligations.IllegalWordsAreExactlyThese : Prop :=
  ∀ w : Word,
    let illegal := 0x07 < (w.extractLsb' 0 8).toNat ∨ w.extractLsb' 8 8 ≠ 0 ∨
      (w.extractLsb' 0 8 ≠ 0x04 ∧ w.extractLsb' 16 16 ≠ 0)
    (illegal → (∃ why, decode w = .error why) ∧ ∀ s : State, s.busy = false →
      (busWrite 0x004 4 w s).busy = true ∧ engineTurn (busWrite 0x004 4 w s) =
        .next { s with cmdr := w, busy := false, done := false, flt := true, code := 0x01, sub := 0 }) ∧
    (¬ illegal → ∃ i, decode w = .ok i ∧ i.opcode = w.extractLsb' 0 8 ∧ i.immediate = (w.extractLsb' 16 16).toNat)

/-- The words of 30_encoding.md R92 and R99, written out. -/
def Obligations.WordsOfTheTableDecode : Prop :=
  decode 0x00000000 = .ok .nop ∧ decode 0x00000001 = .ok .jacobi ∧ decode 0x00000002 = .ok .modexp ∧
  decode 0x00000003 = .ok .sqrt ∧ decode 0x02000004 = .ok (.setup 512) ∧ decode 0x00000005 = .ok .xinit ∧
  decode 0x00000006 = .ok .xtry ∧ decode 0x00000007 = .ok .zeroize

/-! ### NOP and ZEROIZE -/

/-- 44_control.md R170: NOP changes the life-cycle bits alone, from execution and from the write of its word. -/
def Obligations.NopChangesOnlyTheLifeCycle : Prop :=
  (∀ s : State, exec .nop s = .next { s with busy := false, done := true }) ∧
  ∀ s : State, s.busy = false → exec .nop (busWrite 0x004 4 0x00000000 s) =
    .next { s with cmdr := 0, busy := false, done := true, flt := false, code := 0, sub := 0 }

/-- 44_control.md R171: what ZEROIZE clears, and that an issued ZEROIZE leaves the reset state but for XCAP, SCAP,
IE, ACCERR, CMDR and DONE (and the model's own fields). -/
def Obligations.ZeroizeLeavesTheResetStateButForTheControls : Prop :=
  (∀ s : State, exec .zeroize s = .next
    { s with
      n := 0, a := 0, e := 0, r := 0, p := 0, q := 0, sk := false, j := .zero, acc := false, neg := false
      xact := false, idlen := 0, iter := 0, draws := 0, busy := false, done := true }) ∧
  ∀ s : State, s.busy = false → exec .zeroize (busWrite 0x004 4 0x00000007 s) = .next
    { State.reset with
      xcap := s.xcap, scap := s.scap, ie := s.ie, accErr := s.accErr, cmdr := 0x00000007, done := true
      port := s.port, inputs := s.inputs, rdata := s.rdata }

/-! ### JACOBI -/

/-- 40_jacobi.md R110, R111: the binary algorithm computes the product of Legendre symbols that defines the symbol; the
spec marks both as supplied from general knowledge (log entry 13). -/
def Obligations.JacobiAlgorithmComputesTheSymbol : Prop :=
  ∀ a n : Nat, n % 2 = 1 → (jacobi a n).toInt = jacobiProduct a n

/-- 40_jacobi.md R112: J takes the Jacobi symbol of A and N, or BAD_MODULUS clears J; nothing else changes. -/
def Obligations.JacobiWritesTheSymbolOrFaults : Prop :=
  ∀ s : State,
    (s.n.toNat % 2 = 1 → 3 ≤ s.n.toNat → ∃ v : JacobiValue, v.toInt = jacobiSym (s.a.toNat : ℤ) s.n.toNat ∧
      exec .jacobi s = .next { s with j := v, busy := false, done := true }) ∧
    (s.n.toNat % 2 = 0 ∨ s.n.toNat < 3 →
      exec .jacobi s = .next { s with j := .zero, busy := false, flt := true, code := 0x02, sub := 0 })

/-! ### MODEXP -/

/-- 41_modexp.md R120, R122: R takes `A^E mod N`, exactly, or BAD_MODULUS clears R; nothing else changes. -/
def Obligations.ModexpWritesThePowerOrFaults : Prop :=
  ∀ s : State,
    (s.n.toNat % 2 = 1 → 3 ≤ s.n.toNat → ∃ r : Big, r.toNat = s.a.toNat ^ s.e.toNat % s.n.toNat ∧
      exec .modexp s = .next { s with r := r, busy := false, done := true }) ∧
    (s.n.toNat % 2 = 0 ∨ s.n.toNat < 3 →
      exec .modexp s = .next { s with r := 0, busy := false, flt := true, code := 0x02, sub := 0 })

/-! ### SQRT -/

/-- 43_sqrt_extract.md R150: the exponent is an exact quotient, positive and below N, for every key. -/
def Obligations.RootExponentIsExact : Prop :=
  ∀ p q n : Nat, BlumKey p q n →
    8 * blumExp p q n + (p + q) = n + 5 ∧ 8 * blumExp p q n = (p - 1) * (q - 1) + 4 ∧
      0 < blumExp p q n ∧ blumExp p q n < n

/-- 43_sqrt_extract.md R154: what the formula gives, by the Legendre symbols of `a` modulo the two primes. -/
def Obligations.RootFormulaFollowsTheLegendreSymbols : Prop :=
  ∀ a p q n : Nat, BlumKey p q n →
    let r := blumRoot a p q n
    ((r * r : ℤ) ≡ a * legendre a p [ZMOD p]) ∧ ((r * r : ℤ) ≡ a * legendre a q [ZMOD q]) ∧
    (legendre a p = 1 ∧ legendre a q = 1 → verify r a n = .pos) ∧
    (legendre a p = -1 ∧ legendre a q = -1 → verify r a n = .neg) ∧
    (legendre a p * legendre a q = -1 → verify r a n = .fail) ∧
    (legendre a p * legendre a q = 0 → verify r a n ≠ .fail)

/-- 43_sqrt_extract.md R153, R152: the three ends of SQRT, decided by SK and by the verification of
`A^((N + 5 − (P + Q))/8) mod N`; each end's whole next state. Where no key is held the quotient is the model's (log entry 6). -/
def Obligations.SqrtFollowsItsVerification : Prop :=
  ∀ s : State,
    let a := s.a.toNat
    let n := s.n.toNat
    let root := a ^ ((n + 5 - (s.p.toNat + s.q.toNat)) / 8) % n
    (s.sk = false →
      exec .sqrt s = .next { s with r := 0, neg := false, busy := false, flt := true, code := 0x03, sub := 0 }) ∧
    (s.sk = true → root * root % n = a % n →
      exec .sqrt s = .next { s with r := big root, neg := false, busy := false, done := true }) ∧
    (s.sk = true → root * root % n ≠ a % n → root * root % n = (n - a % n) % n →
      exec .sqrt s = .next { s with r := big root, neg := true, busy := false, done := true }) ∧
    (s.sk = true → root * root % n ≠ a % n → root * root % n ≠ (n - a % n) % n →
      exec .sqrt s = .next { s with r := 0, neg := false, busy := false, flt := true, code := 0x07, sub := 1 })

/-- 43_sqrt_extract.md R153, R154: with a key, SQRT completes with a verified root unless the Jacobi symbol of A is
−1, and then it faults EXTRACT_FAILURE. -/
def Obligations.SqrtCompletesUnlessTheSymbolIsMinusOne : Prop :=
  ∀ s : State, s.sk = true → BlumKey s.p.toNat s.q.toNat s.n.toNat →
    (jacobiSym (s.a.toNat : ℤ) s.n.toNat ≠ -1 → ∃ (r : Big) (neg : Bool),
      exec .sqrt s = .next { s with r := r, neg := neg, busy := false, done := true } ∧
      r.toNat < s.n.toNat ∧ (neg = false ↔ r.toNat * r.toNat % s.n.toNat = s.a.toNat % s.n.toNat) ∧
      (neg = true → r.toNat * r.toNat % s.n.toNat = (s.n.toNat - s.a.toNat % s.n.toNat) % s.n.toNat)) ∧
    (jacobiSym (s.a.toNat : ℤ) s.n.toNat = -1 →
      exec .sqrt s = .next { s with r := 0, neg := false, busy := false, flt := true, code := 0x07, sub := 1 })

/-! ### SETUP -/

/-- 42_blum_setup.md R133 with 30_encoding.md R93 and 60_exceptions.md R207: an odd or oversized length faults
BAD_LENGTH and nothing else changes. -/
def Obligations.SetupRefusesBadLengths : Prop :=
  ∀ (imm16 : Nat) (s : State),
    (if imm16 = 0 then 2048 else imm16) % 2 = 1 ∨ 4096 < (if imm16 = 0 then 2048 else imm16) →
    exec (.setup imm16) s = .next { s with busy := false, flt := true, code := 0x04, sub := 0 }

/-- 42_blum_setup.md R133 to R137, 10_state.md R41: a SETUP of a legal length, every draw answered, ends with a
Blum key of exactly that length after 2 to SCAP draws, or with SETUP_FAILURE after exactly SCAP draws and no
key; the rest of the state is as the rule lists. Primality is exact (log entry 5). -/
def Obligations.SetupMakesAKeyOfTheLengthOrFails : Prop :=
  ∀ (imm16 : Nat) (s : State),
    let L := if imm16 = 0 then 2048 else imm16
    let cleared := { s with
      sk := false, p := 0, q := 0, n := 0, xact := false, acc := false, neg := false, j := .zero, r := 0
      busy := false }
    L % 2 = 0 → L ≤ 4096 → DrawsAnswered s →
    (∃ (p q n : Big) (draws : Word) (port : RandomPort),
      exec (.setup imm16) s =
        .next { cleared with p := p, q := q, n := n, sk := true, draws := draws, port := port, done := true } ∧
      BlumKey p.toNat q.toNat n.toNat ∧ HasLength n.toNat L ∧
      (State.lenWord { cleared with n := n }).toNat = L ∧ 2 ≤ draws.toNat ∧ draws ≤ s.scap) ∨
    (∃ port : RandomPort, exec (.setup imm16) s =
      .next { cleared with draws := s.scap, port := port, flt := true, code := 0x05, sub := 0 })

/-- 42_blum_setup.md R133 to R137, the shortest run: where the next two answers of the source give two distinct
primes that are 3 modulo 4 and whose product has the requested length, SETUP completes with them. The list of explicit
answers is the model's (log entry 3). -/
def Obligations.SetupCompletesOnTwoGoodAnswers : Prop :=
  ∀ (imm16 p q : Nat) (v w : BitVec Config.portBits) (rest : List (BitVec Config.portBits)) (s : State),
    let L := if imm16 = 0 then 2048 else imm16
    L % 2 = 0 → L ≤ 4096 → 2 ≤ s.scap.toNat → s.port.answers = v :: w :: rest →
    LeastPrimeAbove (candidateOf (L / 2) v) p → LeastPrimeAbove (candidateOf (L / 2) w) q →
    p % 4 = 3 → q % 4 = 3 → p ≠ q → HasLength (p * q) L →
    exec (.setup imm16) s = .next
      { s with
        p := big p, q := big q, n := big (p * q), sk := true, xact := false, acc := false, neg := false
        j := .zero, r := 0, draws := 2, busy := false, done := true
        port := { s.port with answers := rest, taken := s.port.taken + 2 } }

/-- 42_blum_setup.md R138: lengths 2, 4, 6 and 8 end in SETUP_FAILURE after exactly SCAP draws, whatever the random
source answers. -/
def Obligations.SetupOfTheSmallestLengthsAlwaysFails : Prop :=
  ∀ (L : Nat) (s : State), L = 2 ∨ L = 4 ∨ L = 6 ∨ L = 8 → DrawsAnswered s →
    ∃ port : RandomPort, exec (.setup L) s = .next
      { s with
        sk := false, p := 0, q := 0, n := 0, xact := false, acc := false, neg := false, j := .zero, r := 0
        draws := s.scap, port := port, busy := false, flt := true, code := 0x05, sub := 0 }

/-- 70_reset_and_hazards.md R252: when a draw is not answered SETUP stays in flight, with no register changed. It does
so with no answer at all, and with fewer answers than SCAP that make no key, which stay taken (R243). With SCAP = 0 it
needs no draw and ends. How the model holds the silent source is its own (log entries 3 and 4). -/
def Obligations.SetupWaitsForASilentSource : Prop :=
  ∀ (imm16 : Nat) (s : State),
    let L := if imm16 = 0 then 2048 else imm16
    L % 2 = 0 → L ≤ 4096 → s.port.silent = true →
    (s.scap ≠ 0 → s.port.answers = [] → exec (.setup imm16) s = .next s) ∧
    (s.port.answers.length < s.scap.toNat → NoKeyWithin L s.scap.toNat s.port.answers →
      exec (.setup imm16) s = .next
        { s with port := { answers := [], taken := s.port.taken + s.port.answers.length, silent := true } }) ∧
    (s.scap = 0 → ∃ t, exec (.setup imm16) s = .next t ∧ t.busy = false ∧ t.code = 0x05 ∧ t.draws = 0)

/-! ### XINIT and XTRY -/

/-- 43_sqrt_extract.md R156: the three ends of XINIT, in the order it checks. -/
def Obligations.XinitChecksTheIdentityThenTheKey : Prop :=
  ∀ s : State,
    let cleared := { s with iter := 0, xact := false, acc := false, neg := false, j := .zero, r := 0, busy := false }
    (s.idlen = 0 → exec .xinit s = .next { cleared with flt := true, code := 0x06, sub := 0 }) ∧
    (s.idlen ≠ 0 → s.sk = false → exec .xinit s = .next { cleared with flt := true, code := 0x03, sub := 0 }) ∧
    (s.idlen ≠ 0 → s.sk = true → exec .xinit s = .next { cleared with xact := true, done := true })

/-- 60_exceptions.md R211, 43_sqrt_extract.md R159: XTRY without a session, and XTRY at the cap. -/
def Obligations.XtryFaultsWithoutSessionAndAtTheCap : Prop :=
  ∀ s : State,
    let cleared := { s with j := .zero, acc := false, neg := false, r := 0, busy := false, flt := true }
    (s.xact = false → exec .xtry s = .next { cleared with code := 0x08, sub := 0 }) ∧
    (s.xact = true → s.xcap.toNat ≤ s.iter.toNat →
      exec .xtry s = .next { cleared with xact := false, code := 0x07, sub := 2 })

/-- 43_sqrt_extract.md R158: a candidate whose symbol is not +1 is rejected, the session stays open. -/
def Obligations.XtryRejectsOtherSymbols : Prop :=
  ∀ s : State, s.xact = true → s.iter.toNat < s.xcap.toNat → s.n.toNat % 2 = 1 →
    jacobiSym (s.a.toNat : ℤ) s.n.toNat ≠ 1 →
    ∃ v : JacobiValue, v.toInt = jacobiSym (s.a.toNat : ℤ) s.n.toNat ∧ exec .xtry s = .next
      { s with iter := s.iter + 1, j := v, acc := false, neg := false, r := 0, busy := false, done := true }

/-- 43_sqrt_extract.md R158, R160: with a key, a candidate whose symbol is +1 is accepted: R is the root, verified,
NEG says of which square, the session ends. -/
def Obligations.XtryAcceptsWithAVerifiedRoot : Prop :=
  ∀ s : State, s.xact = true → s.iter.toNat < s.xcap.toNat → BlumKey s.p.toNat s.q.toNat s.n.toNat →
    jacobiSym (s.a.toNat : ℤ) s.n.toNat = 1 →
    ∃ (r : Big) (neg : Bool), exec .xtry s = .next
      { s with
        iter := s.iter + 1, j := .plusOne, acc := true, neg := neg, r := r, xact := false, busy := false
        done := true } ∧
      r.toNat = s.a.toNat ^ ((s.n.toNat + 5 - (s.p.toNat + s.q.toNat)) / 8) % s.n.toNat ∧
      (neg = false → r.toNat * r.toNat % s.n.toNat = s.a.toNat % s.n.toNat) ∧
      (neg = true → r.toNat * r.toNat % s.n.toNat = (s.n.toNat - s.a.toNat % s.n.toNat) % s.n.toNat ∧
        r.toNat * r.toNat % s.n.toNat ≠ s.a.toNat % s.n.toNat)

/-- 43_sqrt_extract.md R158, 60_exceptions.md R210: where an accepted candidate's root fails its verification (a
broken key), XTRY faults, ends the session and leaves no result. Only a state without a true key meets this: no run reaches
one, since primality is exact (log entry 5), and the quotient of its root is the model's (log entry 6). -/
def Obligations.XtryFaultsOnABrokenKey : Prop :=
  ∀ s : State,
    let a := s.a.toNat
    let n := s.n.toNat
    let root := a ^ ((n + 5 - (s.p.toNat + s.q.toNat)) / 8) % n
    s.xact = true → s.iter.toNat < s.xcap.toNat → n % 2 = 1 → jacobiSym (a : ℤ) n = 1 →
    root * root % n ≠ a % n → root * root % n ≠ (n - a % n) % n →
    exec .xtry s = .next
      { s with
        iter := s.iter + 1, j := .zero, acc := false, neg := false, r := 0, xact := false, busy := false
        flt := true, code := 0x07, sub := 1 }

/-! ### What every command keeps to -/

/-- 10_state.md R23, R24, R37, R39, R40: the operands and controls no command writes (A, E and IDLEN but for
ZEROIZE); the last three fields are the model's own (log entries 2 and 3). -/
def Obligations.CommandsLeaveOperandsAndControls : Prop :=
  ∀ (i : Instr) (s t : State), exec i s = .next t →
    (i ≠ .zeroize → t.a = s.a ∧ t.e = s.e ∧ t.idlen = s.idlen) ∧
    t.xcap = s.xcap ∧ t.scap = s.scap ∧ t.ie = s.ie ∧ t.accErr = s.accErr ∧ t.cmdr = s.cmdr ∧
    t.inputs = s.inputs ∧ t.rdata = s.rdata ∧ ((∀ imm16, i ≠ .setup imm16) → t.port = s.port)

/-- 10_state.md R25, 41_modexp.md R123: R is below N after every command that produces it. -/
def Obligations.ResultStaysBelowTheModulus : Prop :=
  ∀ (i : Instr) (s t : State), i = .modexp ∨ i = .sqrt ∨ i = .xtry → 0 < s.n.toNat → exec i s = .next t →
    t.r.toNat < s.n.toNat

/-- 60_exceptions.md R203: no stale or partial result can be read after a fault. -/
def Obligations.FaultsLeaveNoResult : Prop :=
  ∀ (i : Instr) (s t : State), exec i s = .next t → s.flt = false → t.flt = true →
    (i = .modexp ∨ i = .sqrt ∨ i = .xtry ∨ i = .xinit → t.r = 0) ∧
    (i = .jacobi ∨ i = .xtry ∨ i = .xinit → t.j = .zero) ∧
    (i = .sqrt ∨ i = .xtry ∨ i = .xinit → t.neg = false) ∧
    (i = .xtry ∨ i = .xinit → t.acc = false)

/-- 60_exceptions.md R201, R213: the faults each command can end with, as (CODE, SUB). -/
def Obligations.FaultCodesOfEachCommand : Prop :=
  ∀ (i : Instr) (s t : State), exec i s = .next t → s.flt = false → t.flt = true →
    (t.code.toNat, t.sub.toNat) ∈ (match i with
      | .nop => []
      | .jacobi => [(0x02, 0)]
      | .modexp => [(0x02, 0)]
      | .sqrt => [(0x03, 0), (0x07, 1)]
      | .setup _ => [(0x04, 0), (0x05, 0)]
      | .xinit => [(0x06, 0), (0x03, 0)]
      | .xtry => [(0x08, 0), (0x07, 2), (0x07, 1)]
      | .zeroize => [] : List (Nat × Nat))

/-- 60_exceptions.md R218, 10_state.md R38, R42: neither counter overflows or passes its cap. -/
def Obligations.CountersStayWithinTheirCaps : Prop :=
  ∀ s t : State,
    (exec .xtry s = .next t →
      t.iter = s.iter ∨ (t.iter.toNat = s.iter.toNat + 1 ∧ t.iter.toNat ≤ s.xcap.toNat)) ∧
    (∀ imm16, exec (.setup imm16) s = .next t → t.draws = s.draws ∨ t.draws.toNat ≤ s.scap.toNat)

/-- 10_state.md R51: XACT after each command, after the reset input and after a host write to N. For XTRY in an open
session N is odd, as it is in every state a session is open in (43_sqrt_extract.md R155). -/
def Obligations.SessionFlagAfterEachEvent : Prop :=
  (∀ (i : Instr) (s t : State), DrawsAnswered s → (i = .xtry → s.xact = true → s.n.toNat % 2 = 1) →
    exec i s = .next t →
    t.xact = match i with
      | .nop => s.xact
      | .jacobi => s.xact
      | .modexp => s.xact
      | .sqrt => s.xact
      | .setup imm16 => s.xact && badLength (requestedLength imm16)
      | .xinit => s.sk && decide (s.idlen ≠ 0)
      | .xtry => s.xact && decide (s.iter < s.xcap) && decide (jacobiSym (s.a.toNat : ℤ) s.n.toNat ≠ 1)
      | .zeroize => false) ∧
  (∀ s : State, (applyReset s).xact = false) ∧
  ∀ (s : State) (i : Nat) (v : Word), s.busy = false → i < 128 →
    (busWrite (BitVec.ofNat 12 (0x200 + 4 * i)) 4 v s).xact = false

/-! ### Whole-machine rules -/

/-- The reset state has the invariant. -/
def Obligations.ResetHasTheInvariant : Prop := Invariant State.reset

/-- 10_state.md R27, R33, R34, 43_sqrt_extract.md R155, 60_exceptions.md R201, R202: every step keeps the
invariant, from every state that has it. Primality is exact (log entry 5). -/
def Obligations.EveryStepKeepsTheInvariant : Prop :=
  ∀ s t : State, Invariant s → step s = .next t → Invariant t

/-- From reset, under every sequence of host events and every behaviour of the random source, every run is safe. The
event list and the port are the model's own (log entries 2 and 3). -/
def Obligations.EveryRunFromResetIsSafe : Prop :=
  ∀ (k : Nat) (events : List Input) (port : RandomPort),
    SafeRun k { State.reset with inputs := events, port := port }

/-- 10_state.md R26: no read and no interrupt tells two states apart that differ only in P and Q. -/
def Obligations.HostCannotReadTheSecrets : Prop :=
  ∀ s t : State, DifferOnlyInSecrets s t → SameHostView s t

/-- 10_state.md R26: P and Q are read only by SQRT and XTRY: any other command does the same whatever they hold. -/
def Obligations.OnlyRootCommandsReadTheSecrets : Prop :=
  ∀ (i : Instr) (s t s' : State), i ≠ .sqrt → i ≠ .xtry → DifferOnlyInSecrets s t → exec i s = .next s' →
    ∃ t', exec i t = .next t' ∧ DifferOnlyInSecrets s' t'

/-- 10_state.md R26: a step leaves P and Q as they are, or clears both, or is a SETUP that makes a key. -/
def Obligations.OnlySetupWritesTheSecrets : Prop :=
  ∀ s t : State, step s = .next t →
    (t.p = s.p ∧ t.q = s.q) ∨ (t.p = 0 ∧ t.q = 0) ∨
    (s.busy = true ∧ EngineNext s ∧ (∃ imm16, decode s.cmdr = .ok (.setup imm16)) ∧ t.sk = true ∧ t.done = true)

/-- 10_state.md R22, R27: a step that changes N is the reset input, a host write to a limb of N (which ends the
key), or the execution of a SETUP or a ZEROIZE. -/
def Obligations.ModulusChangesOnlyByTheseEvents : Prop :=
  ∀ s t : State, step s = .next t → t.n ≠ s.n →
    (∃ consumed rest, s.inputs = .rst consumed :: rest) ∨
    (∃ off size v rest, s.inputs = .write off size v :: rest ∧ s.busy = false ∧ 0x200 ≤ off.toNat ∧
      off.toNat < 0x400 ∧ t.sk = false ∧ t.p = 0 ∧ t.q = 0 ∧ t.xact = false) ∨
    (s.busy = true ∧ EngineNext s ∧
      (decode s.cmdr = .ok .zeroize ∨ ∃ imm16, decode s.cmdr = .ok (.setup imm16)))

/-- 10_state.md R51: a session is opened only by an XINIT that completes, with an identity and a key. -/
def Obligations.OnlyXinitOpensASession : Prop :=
  ∀ s t : State, step s = .next t → s.xact = false → t.xact = true →
    s.busy = true ∧ EngineNext s ∧ decode s.cmdr = .ok .xinit ∧ s.idlen ≠ 0 ∧ s.sk = true ∧ t.done = true

/-! ### The bus -/

/-- 20_memory.md R68: a misaligned or wrong-sized access is refused. -/
def Obligations.MisalignedOrWrongSizedAccessIsRefused : Prop :=
  ∀ (off : Offset) (size : Nat) (v : Word) (s : State), size ≠ 4 ∨ off.toNat % 4 ≠ 0 →
    busRead off size s = (0, { s with accErr := true }) ∧ busWrite off size v s = { s with accErr := true }

/-- 20_memory.md R69: unmapped offsets, writes to read-only registers and to the window of R are refused; a read of
a mapped register with no command in flight is not; no read depends on P or Q. -/
def Obligations.UnmappedAndReadOnlyAccessIsRefused : Prop :=
  ∀ (off : Offset) (v : Word) (s : State), off.toNat % 4 = 0 →
    ((0x030 ≤ off.toNat ∧ off.toNat < 0x200) ∨ 0xA00 ≤ off.toNat →
      busRead off 4 s = (0, { s with accErr := true }) ∧ busWrite off 4 v s = { s with accErr := true }) ∧
    (off.toNat ∈ [0x000, 0x00C, 0x014, 0x01C, 0x028, 0x02C] ∨ (0x800 ≤ off.toNat ∧ off.toNat < 0xA00) →
      busWrite off 4 v s = { s with accErr := true }) ∧
    (off.toNat < 0x030 ∨ (0x200 ≤ off.toNat ∧ off.toNat < 0xA00) → s.busy = false → (busRead off 4 s).2 = s) ∧
    ∀ p q : Big, (busRead off 4 { s with p := p, q := q }).1 = (busRead off 4 s).1

/-- 20_memory.md R70: while a command is in flight only ID, STATUS and CTRL are read and only STATUS and CTRL
written. -/
def Obligations.AccessIsRefusedWhileACommandIsInFlight : Prop :=
  ∀ (off : Offset) (v : Word) (s : State), s.busy = true →
    (off ≠ 0x000 → off ≠ 0x008 → off ≠ 0x010 → busRead off 4 s = (0, { s with accErr := true })) ∧
    (off ≠ 0x008 → off ≠ 0x010 → busWrite off 4 v s = { s with accErr := true }) ∧
    busRead 0x000 4 s = (0x4D535245, s) ∧ busRead 0x008 4 s = (s.statusWord, s) ∧
    busRead 0x010 4 s = (s.ctrlWord, s) ∧
    busWrite 0x008 4 v s = acknowledge v s ∧ busWrite 0x010 4 v s = { s with ie := v.getLsbD 0 }

/-- 20_memory.md R63, 10_state.md R31, R32, R34 to R42: what the control and status registers read as; LEN is
the bit length of N in the words of 00_scope.md R8. -/
def Obligations.ControlRegistersReadTheirFields : Prop :=
  ∀ s : State, s.busy = false →
    (busRead 0x000 4 s).1 = 0x4D535245 ∧ (busRead 0x004 4 s).1 = s.cmdr ∧
    (busRead 0x00C 4 s).1.toNat = 256 * s.sub.toNat + s.code.toNat ∧
    (busRead 0x010 4 s).1.toNat = s.ie.toNat ∧
    (busRead 0x014 4 s).1.toInt = s.j.toInt ∧
    (busRead 0x018 4 s).1 = s.idlen ∧ (busRead 0x01C 4 s).1 = s.iter ∧ (busRead 0x020 4 s).1 = s.xcap ∧
    (busRead 0x024 4 s).1 = s.scap ∧ (busRead 0x02C 4 s).1 = s.draws ∧
    (s.n = 0 → (busRead 0x028 4 s).1 = 0) ∧ (s.n ≠ 0 → HasLength s.n.toNat (busRead 0x028 4 s).1.toNat)

/-- 10_state.md R33: the bits of STATUS, and what a write to it clears. -/
def Obligations.StatusBitsAndTheirClearing : Prop :=
  ∀ (s : State) (v : Word),
    (let w := (busRead 0x008 4 s).1
     w.getLsbD 0 = s.busy ∧ w.getLsbD 1 = s.done ∧ w.getLsbD 2 = s.flt ∧ w.getLsbD 3 = s.sk ∧
     w.getLsbD 4 = s.acc ∧ w.getLsbD 5 = s.neg ∧ w.getLsbD 6 = s.xact ∧ w.getLsbD 7 = s.accErr ∧
     ∀ k, 8 ≤ k → w.getLsbD k = false) ∧
    busWrite 0x008 4 v s =
      { s with
        done := s.done && !v.getLsbD 1, flt := s.flt && !v.getLsbD 2, accErr := s.accErr && !v.getLsbD 7 }

/-- 60_exceptions.md R212: the interrupt line is high exactly with IE and a completion or a fault; it falls at an
acceptance and at a write that clears both bits, and a normal end raises it when enabled. -/
def Obligations.InterruptFollowsCompletion : Prop :=
  ∀ (s : State) (w v : Word),
    (s.irq = true ↔ s.ie = true ∧ (s.done = true ∨ s.flt = true)) ∧
    (s.busy = false → (busWrite 0x004 4 w s).irq = false) ∧
    (v.getLsbD 1 = true → v.getLsbD 2 = true → (busWrite 0x008 4 v s).irq = false) ∧
    (complete s).irq = s.ie ∧ ∀ k, (raiseFault k s).irq = s.ie

/-- 20_memory.md R66: the word at `B(X) + 4·i` is limb `i`, and a register is the sum of its limbs. -/
def Obligations.WindowsShowTheLimbs : Prop :=
  ∀ (s : State) (x : BigReg), s.busy = false →
    (∀ i, i < 128 → busRead (BitVec.ofNat 12 (x.base + 4 * i)) 4 s =
      (BitVec.ofNat 32 ((s.bigReg x).toNat / 2 ^ (32 * i)), s)) ∧
    (s.bigReg x).toNat = ∑ i ∈ Finset.range 128, (limb (s.bigReg x) i).toNat * 2 ^ (32 * i)

/-- 20_memory.md R67, 10_state.md R50: a window write replaces one limb and keeps the other 127, and a write to N
also clears SK, P, Q and XACT; nothing else changes. -/
def Obligations.WindowWriteReplacesOneLimb : Prop :=
  ∀ (s : State) (i : Nat) (v : Word), s.busy = false → i < 128 →
    let replaced (old new : Big) : Prop :=
      new.toNat = old.toNat - old.toNat / 2 ^ (32 * i) % 2 ^ 32 * 2 ^ (32 * i) + v.toNat * 2 ^ (32 * i) ∧
      limb new i = v ∧ ∀ j, j < 128 → j ≠ i → limb new j = limb old j
    (∃ n, replaced s.n n ∧ busWrite (BitVec.ofNat 12 (0x200 + 4 * i)) 4 v s =
      { s with n := n, sk := false, p := 0, q := 0, xact := false }) ∧
    (∃ a, replaced s.a a ∧ busWrite (BitVec.ofNat 12 (0x400 + 4 * i)) 4 v s = { s with a := a }) ∧
    (∃ e, replaced s.e e ∧ busWrite (BitVec.ofNat 12 (0x600 + 4 * i)) 4 v s = { s with e := e })

/-! ### The host's sequences -/

/-- 30_encoding.md R103: what `wrbig` writes `rdbig` reads, for A and E, and nothing else changes but the value
the bus last returned. -/
def Obligations.BigNumberTransfersRoundTrip : Prop :=
  ∀ (s : State) (v : Nat), s.busy = false → v < 2 ^ 4096 →
    hostWriteBig .a v s = { s with a := big v } ∧ hostWriteBig .e v s = { s with e := big v } ∧
    (hostReadBig .a (hostWriteBig .a v s)).1 = v ∧ (hostReadBig .e (hostWriteBig .e v s)).1 = v

/-- 45_host_sequences.md R182: LOAD_PUBLIC leaves N = n and no key. -/
def Obligations.LoadPublicLeavesNoKey : Prop :=
  ∀ (s : State) (n : Nat), s.busy = false → n < 2 ^ 4096 →
    loadPublic n s = { s with n := big n, sk := false, p := 0, q := 0, xact := false }

/-- 45_host_sequences.md R185: JAC reads back the Jacobi symbol of `x` on the modulus N holds, or finds FLT set, with
BAD_MODULUS in FAULT, where N is even or below 3. Each end's whole block is stated, for every number of polls. The list of
polls is the model's (log entry 9). -/
def Obligations.JacReadsTheSymbol : Prop :=
  ∀ (h : HostState) (x : Nat), h.block.busy = false → x < 2 ^ 4096 →
    let loaded := { h.block with a := big x, cmdr := 0x00000001, done := false, flt := false, code := 0, sub := 0 }
    (h.block.n.toNat % 2 = 1 → 3 ≤ h.block.n.toNat → ∃ (v : JacobiValue) (reading : JacReading),
      v.toInt = jacobiSym (x : ℤ) h.block.n.toNat ∧ reading.jres.toInt = v.toInt ∧
      reading.status.getLsbD 1 = true ∧ reading.status.getLsbD 2 = false ∧
      jac x h = .done reading
        { h with block := { loaded with j := v, done := true, rdata := reading.jres }, polls := h.polls.tail }) ∧
    (h.block.n.toNat % 2 = 0 ∨ h.block.n.toNat < 3 → ∃ status : Word,
      status.getLsbD 1 = false ∧ status.getLsbD 2 = true ∧
      jac x h = .done { status := status, jres := 0 }
        { h with block := { loaded with j := .zero, flt := true, code := 0x02, rdata := 0 }, polls := h.polls.tail })

/-! ### Host writes and events -/

/-- 20_memory.md R64, R72, 10_state.md R35, R37, R39, R40: the host's writes to IDLEN, XCAP and SCAP with no command in
flight, and to CTRL at any time: each one's whole next state. -/
def Obligations.HostWritesOfTheControlRegisters : Prop :=
  ∀ (s : State) (v : Word),
    busWrite 0x010 4 v s = { s with ie := v.getLsbD 0 } ∧
    (s.busy = false →
      busWrite 0x018 4 v s = { s with idlen := v } ∧ busWrite 0x020 4 v s = { s with xcap := v } ∧
      busWrite 0x024 4 v s = { s with scap := v })

/-- 20_memory.md R73, 70_reset_and_hazards.md R255: a step serves the next event. A write is the bus write of the state
without it, a read the bus read, whose value is found in `rdata`, idle time changes nothing, and neither does the
engine's turn with no command in flight. The list of events and `rdata` are the model's (log entry 2). -/
def Obligations.StepServesTheNextEvent : Prop :=
  ∀ (s : State) (rest : List Input),
    let u := { s with inputs := rest }
    (∀ off size v, s.inputs = .write off size v :: rest → step s = .next (busWrite off size v u)) ∧
    (∀ off size, s.inputs = .read off size :: rest →
      step s = .next { (busRead off size u).2 with rdata := (busRead off size u).1 }) ∧
    (s.inputs = .idle :: rest → step s = .next u) ∧
    (s.busy = false → s.inputs = .engine :: rest → step s = .next u) ∧
    (s.busy = false → s.inputs = [] → step s = .next s)

/-! ### SETUP, draw by draw -/

/-- 42_blum_setup.md R131 to R137: which primes a SETUP commits. Where the first answers of the source make a key within
the cap, by the rules for dropping a candidate that is not 3 modulo 4 (R134), for making an equal second prime again
(R135) and for discarding a pair of the wrong length (R136), SETUP completes with that key and takes exactly those
answers; where the first SCAP answers make none, it ends in SETUP_FAILURE after exactly those. The explicit answers are
the model's (log entry 3), primality is exact (log entry 5). -/
def Obligations.SetupFollowsItsDraws : Prop :=
  ∀ (imm16 : Nat) (s : State),
    let L := if imm16 = 0 then 2048 else imm16
    let cleared := { s with
      sk := false, p := 0, q := 0, n := 0, xact := false, acc := false, neg := false, j := .zero, r := 0
      busy := false }
    L % 2 = 0 → L ≤ 4096 →
    (∀ used rest p q, s.port.answers = used ++ rest → used.length ≤ s.scap.toNat → DrawsMakeKey L used p q →
      exec (.setup imm16) s = .next
        { cleared with
          p := big p, q := big q, n := big (p * q), sk := true, draws := BitVec.ofNat 32 used.length, done := true
          port := { s.port with answers := rest, taken := s.port.taken + used.length } }) ∧
    (s.scap.toNat ≤ s.port.answers.length → NoKeyWithin L s.scap.toNat s.port.answers →
      exec (.setup imm16) s = .next
        { cleared with
          draws := s.scap, flt := true, code := 0x05, sub := 0
          port := { s.port with
            answers := s.port.answers.drop s.scap.toNat, taken := s.port.taken + s.scap.toNat } })

/-! ### The host's polling and its cipher -/

/-- 30_encoding.md R103, 70_reset_and_hazards.md R252, R255: `wait` polls STATUS until BUSY is 0, however many polls come
before the engine's turn, and ends with the engine's turn done. Where that turn leaves the command in flight (a source
that never answers), so does every later one, and `wait` never ends. The list of polls is the model's (log entry 9). -/
def Obligations.WaitEndsWithTheCommand : Prop :=
  ∀ (h : HostState) (t : State), engineTurn h.block = .next t →
    (t.busy = false →
      hostWait h = .done () { h with block := { t with rdata := t.statusWord }, polls := h.polls.tail }) ∧
    (t.busy = true → engineTurn t = .next t ∧
      hostWait h = .polling { h with block := { t with rdata := t.statusWord }, polls := h.polls.tail })

/-- 45_host_sequences.md R187, R188: what ENCRYPT_BIT answers is a pair made of two distinct witnesses with the polarity
for their symbol, with their inverses; and DECRYPT_BIT of such a pair gives the bit back: by the first half where
`r² ≡ a`, by the second where `r² ≡ −a` and not `a`, unless the sum of the witness and `r` shares a factor with `n`. Why
the bit comes back is from general knowledge in the spec. -/
def Obligations.EncryptedBitsDecrypt : Prop :=
  ∀ (n : Nat) (bit : Bool) (a : Nat) (h : HostState),
    n % 2 = 1 → 3 ≤ n → n < 2 ^ 4096 → h.block.n = big n → h.block.busy = false →
    let witness (t inv : Nat) : Prop :=
      t < n ∧ t * inv % n = 1 ∧ jacobiSym (t : ℤ) n = if bit then 1 else -1
    (∀ (cap c1 c2 : Nat) (h' : HostState), encryptBit cap n (polarity bit) a h = .done (some (c1, c2)) h' →
      ∃ t1 i1 t2 i2, witness t1 i1 ∧ witness t2 i2 ∧ t1 ≠ t2 ∧ c1 < n ∧ c2 < n ∧
        (c1 : ℤ) ≡ t1 + a * i1 [ZMOD n] ∧ (c2 : ℤ) ≡ t2 - a * i2 [ZMOD n] ∧
        h'.block.n = h.block.n ∧ h'.block.busy = false) ∧
    ∀ (r t1 i1 t2 i2 c1 c2 : Nat), r < 2 ^ 4096 → a < 2 ^ 4096 → witness t1 i1 → witness t2 i2 →
      (c1 : ℤ) ≡ t1 + a * i1 [ZMOD n] → (c2 : ℤ) ≡ t2 - a * i2 [ZMOD n] →
      ((r * r : ℤ) ≡ a [ZMOD n] ∧ (t1 + r).Coprime n) ∨
        ((r * r : ℤ) ≡ -a [ZMOD n] ∧ ¬ (r * r : ℤ) ≡ a [ZMOD n] ∧ (t2 + r).Coprime n) →
      ∃ h', decryptBit n c1 c2 r a h = .done bit h' ∧ h'.block.n = h.block.n ∧ h'.block.busy = false
end

