-- ==== Sys2Proof/Laws/Arith.lean ====
section
/-! SUPPORT. What the arithmetic functions of Sys2Proof/Machine/Arith.lean compute, and the limbs of a big-number
register. -/

namespace Sys2Proof.Machine

/-! ### bitlen (R8) -/

/-- `bitlen` is the library's `Nat.size`. -/
theorem bitlen_eq_size (x : Nat) : bitlen x = x.size := by
  unfold bitlen
  split
  · simp [*]
  · rename_i h
    refine le_antisymm ?_ ?_
    · by_contra hlt
      have := Nat.size_le.mp (Nat.lt_succ_iff.mp (not_le.mp hlt))
      exact absurd this (not_lt.mpr (Nat.log2_self_le h))
    · exact Nat.size_le.mpr Nat.lt_log2_self

theorem bitlen_le_iff {x k : Nat} : bitlen x ≤ k ↔ x < 2 ^ k := by
  rw [bitlen_eq_size, Nat.size_le]

theorem lt_bitlen_iff {x k : Nat} : k < bitlen x ↔ 2 ^ k ≤ x := by
  rw [bitlen_eq_size, Nat.lt_size]

/-- R8: the number of binary digits, by the powers of two around the number. -/
theorem bitlen_eq_iff {x k : Nat} (hk : 0 < k) : bitlen x = k ↔ 2 ^ (k - 1) ≤ x ∧ x < 2 ^ k := by
  rw [← bitlen_le_iff, ← lt_bitlen_iff]
  omega

/-! ### modexp (R120) -/

theorem modexpLoop_eq (b e n : Nat) : ∀ i r, modexpLoop b e n i r % n = r ^ 2 ^ i * b ^ (e % 2 ^ i) % n := by
  intro i
  induction i with
  | zero => intro r; simp [modexpLoop, Nat.mod_one]
  | succ i ih =>
    intro r
    have hsplit : e % 2 ^ (i + 1) = 2 ^ i * (e.testBit i).toNat + e % 2 ^ i := by
      rw [Nat.pow_succ, Nat.mod_mul, Nat.toNat_testBit, Nat.add_comm]
    rw [modexpLoop, ih, hsplit]
    cases e.testBit i
    · simp only [Bool.false_eq_true, if_false, Bool.toNat_false, Nat.mul_zero, Nat.zero_add]
      rw [Nat.mul_mod, Nat.pow_mod, Nat.mod_mod, ← Nat.pow_mod, ← Nat.mul_mod, ← pow_two, ← pow_mul, pow_succ']
    · simp only [if_true, Bool.toNat_true, Nat.mul_one]
      have h : ((r * r) % n * b % n) ^ 2 ^ i % n = (r * r * b) ^ 2 ^ i % n := by
        rw [Nat.pow_mod, Nat.mod_mod, ← Nat.pow_mod, Nat.pow_mod, Nat.mul_mod, Nat.mod_mod, ← Nat.mul_mod,
          ← Nat.pow_mod]
      rw [Nat.mul_mod, h, ← Nat.mul_mod]
      congr 1
      rw [pow_add, mul_pow, ← pow_two, ← pow_mul, pow_succ']
      ring

theorem modexpLoop_reduced (b e n : Nat) : ∀ i r, modexpLoop b e n i (r % n) % n = modexpLoop b e n i (r % n) := by
  intro i
  induction i with
  | zero => intro r; simp [modexpLoop]
  | succ i ih =>
    intro r
    rw [modexpLoop]
    split
    · exact ih _
    · exact ih _

/-- R120: the unit computes `a^e mod n`. -/
theorem modexp_eq_pow_mod (a e n : Nat) : modexp a e n = a ^ e % n := by
  have he : e % 2 ^ bitlen e = e := Nat.mod_eq_of_lt (bitlen_le_iff.mp le_rfl)
  rw [modexp, ← modexpLoop_reduced, modexpLoop_eq, he, Nat.mul_mod, ← Nat.pow_mod, Nat.pow_mod 1]
  simp [← Nat.pow_mod]

theorem modexp_lt {n : Nat} (a e : Nat) (h : 0 < n) : modexp a e n < n := by
  rw [modexp_eq_pow_mod]; exact Nat.mod_lt _ h

/-! ### is_prime and next_prime (R131) -/

theorem noDivisorFrom_iff (x : Nat) : ∀ fuel d, 2 ≤ d → x < fuel + d →
    (noDivisorFrom fuel d x = true ↔ ∀ k, d ≤ k → k * k ≤ x → ¬ k ∣ x) := by
  intro fuel
  induction fuel with
  | zero =>
    intro d hd hx
    simp only [noDivisorFrom, true_iff]
    intro k hk hkk
    exact absurd hkk (by nlinarith)
  | succ fuel ih =>
    intro d hd hx
    unfold noDivisorFrom
    split
    · rename_i h
      simp only [true_iff]
      intro k hk hkk
      exact absurd (lt_of_lt_of_le h (Nat.mul_le_mul hk hk)) (by omega)
    · rename_i h
      split
      · rename_i hz
        simp only [Bool.false_eq_true, false_iff, not_forall]
        exact ⟨d, le_rfl, by omega, not_not.mpr (Nat.dvd_of_mod_eq_zero hz)⟩
      · rename_i hz
        rw [ih (d + 1) (by omega) (by omega)]
        constructor
        · intro hall k hk hkk
          rcases Nat.lt_or_eq_of_le hk with hlt | rfl
          · exact hall k hlt hkk
          · exact fun hdvd => hz (Nat.mod_eq_zero_of_dvd hdvd)
        · exact fun hall k hk => hall k (by omega)

/-- R131: the test is exact primality. -/
theorem isPrime_iff (x : Nat) : isPrime x = true ↔ x.Prime := by
  unfold isPrime
  rw [Bool.and_eq_true, decide_eq_true_iff]
  constructor
  · rintro ⟨h2, hd⟩
    rw [noDivisorFrom_iff x x 2 le_rfl (by omega)] at hd
    rw [Nat.prime_def_le_sqrt]
    exact ⟨h2, fun m hm hs => hd m hm (Nat.le_sqrt.mp hs)⟩
  · intro hp
    refine ⟨hp.two_le, (noDivisorFrom_iff x x 2 le_rfl (by omega)).mpr ?_⟩
    intro k hk hkk hdvd
    rcases (Nat.dvd_prime hp).mp hdvd with h | h
    · omega
    · subst h; nlinarith

theorem primeTest_iff (x : Nat) : primeTest x = true ↔ x.Prime := isPrime_iff x

theorem firstPrimeFrom_spec : ∀ fuel c, (∃ p, c ≤ p ∧ p < c + fuel ∧ p.Prime) →
    (firstPrimeFrom fuel c).Prime ∧ c ≤ firstPrimeFrom fuel c ∧
      ∀ y, c ≤ y → y < firstPrimeFrom fuel c → ¬ y.Prime := by
  intro fuel
  induction fuel with
  | zero => rintro c ⟨p, h1, h2, _⟩; omega
  | succ fuel ih =>
    rintro c ⟨p, h1, h2, hp⟩
    unfold firstPrimeFrom
    split
    · rename_i h
      exact ⟨(primeTest_iff c).mp h, le_rfl, fun y hy hlt => by omega⟩
    · rename_i h
      have hc : ¬ c.Prime := fun hc => h ((primeTest_iff c).mpr hc)
      have hne : c ≠ p := fun he => hc (he ▸ hp)
      obtain ⟨h3, h4, h5⟩ := ih (c + 1) ⟨p, by omega, by omega, hp⟩
      refine ⟨h3, by omega, fun y hy hlt => ?_⟩
      rcases Nat.lt_or_eq_of_le hy with hy | rfl
      · exact h5 y hy hlt
      · exact hc

/-- R131: `next_prime(x)` is the least prime strictly greater than `x`. -/
theorem nextPrime_spec (x : Nat) :
    (nextPrime x).Prime ∧ x < nextPrime x ∧ ∀ y, x < y → y < nextPrime x → ¬ y.Prime := by
  refine firstPrimeFrom_spec _ _ ?_
  rcases Nat.eq_zero_or_pos x with rfl | hx
  · exact ⟨2, by omega, by omega, Nat.prime_two⟩
  · obtain ⟨p, hp, hlt, hle⟩ := Nat.exists_prime_lt_and_le_two_mul x hx.ne'
    exact ⟨p, by omega, by omega, hp⟩

/-- The bound that makes the search of `nextPrime` finite, from the prime it finds. -/
theorem nextPrime_le (x : Nat) (hx : x ≠ 0) : nextPrime x ≤ 2 * x := by
  obtain ⟨p, hp, hlt, hle⟩ := Nat.exists_prime_lt_and_le_two_mul x hx
  by_contra h
  exact (nextPrime_spec x).2.2 p hlt (by omega) hp

/-! ### verify (R152) -/

theorem verify_pos {r a n : Nat} : verify r a n = .pos ↔ r * r % n = a % n := by
  unfold verify; split <;> simp_all; split <;> simp

theorem verify_neg {r a n : Nat} : verify r a n = .neg ↔ r * r % n ≠ a % n ∧ r * r % n = negMod a n := by
  unfold verify; split <;> simp_all

theorem verify_fail {r a n : Nat} : verify r a n = .fail ↔ r * r % n ≠ a % n ∧ r * r % n ≠ negMod a n := by
  unfold verify; split <;> simp_all

/-! ### limbs (R66, R67) -/

theorem big_toNat {x : Nat} (h : x < 2 ^ Config.W) : (big x).toNat = x := by
  rw [BitVec.toNat_ofNat, Nat.mod_eq_of_lt h]

/-- Three parts of a number around limb `i`. -/
theorem limb_parts (x : Big) (i : Nat) :
    x.toNat = x.toNat % 2 ^ (32 * i) + 2 ^ (32 * i) * ((limb x i).toNat + 2 ^ 32 * (x.toNat / 2 ^ (32 * (i + 1)))) := by
  have h1 := Nat.mod_add_div x.toNat (2 ^ (32 * i))
  have h2 := Nat.mod_add_div (x.toNat / 2 ^ (32 * i)) (2 ^ 32)
  have h3 : x.toNat / 2 ^ (32 * (i + 1)) = x.toNat / 2 ^ (32 * i) / 2 ^ 32 := by
    rw [Nat.div_div_eq_div_mul, ← pow_add, Nat.mul_succ]
  have h4 : (limb x i).toNat = x.toNat / 2 ^ (32 * i) % 2 ^ 32 := BitVec.toNat_ofNat _ _
  rw [h4, h3, h2, h1]

/-- R67: the number a limb write leaves. -/
theorem setLimb_toNat (x : Big) (i : Nat) (v : Word) (hi : i < Config.NL) :
    (setLimb x i v).toNat =
      x.toNat % 2 ^ (32 * i) + 2 ^ (32 * i) * (v.toNat + 2 ^ 32 * (x.toNat / 2 ^ (32 * (i + 1)))) := by
  have hp := limb_parts x i
  have hi128 : i < 128 := hi
  have hW4096 : Config.W = 4096 := rfl
  set lo := x.toNat % 2 ^ (32 * i)
  set hi' := x.toNat / 2 ^ (32 * (i + 1)) with hhi
  have hlo : lo < 2 ^ (32 * i) := Nat.mod_lt _ (Nat.two_pow_pos _)
  have hx : hi' < 2 ^ (Config.W - 32 * (i + 1)) := by
    rw [hhi, Nat.div_lt_iff_lt_mul (Nat.two_pow_pos _), ← pow_add, Nat.sub_add_cancel (by omega)]
    exact x.isLt
  have hv := v.isLt
  have hW : 2 ^ Config.W = 2 ^ (32 * i) * (2 ^ 32 * 2 ^ (Config.W - 32 * (i + 1))) := by
    rw [← pow_add, ← pow_add]
    congr 1
    omega
  unfold setLimb
  have hval : x.toNat - (limb x i).toNat * 2 ^ (32 * i) + v.toNat * 2 ^ (32 * i) =
      lo + 2 ^ (32 * i) * (v.toNat + 2 ^ 32 * hi') := by
    have e1 : 2 ^ (32 * i) * ((limb x i).toNat + 2 ^ 32 * hi') =
        (limb x i).toNat * 2 ^ (32 * i) + 2 ^ (32 * i) * (2 ^ 32 * hi') := by ring
    have e2 : 2 ^ (32 * i) * (v.toNat + 2 ^ 32 * hi') =
        v.toNat * 2 ^ (32 * i) + 2 ^ (32 * i) * (2 ^ 32 * hi') := by ring
    rw [e1] at hp
    rw [e2]
    omega
  rw [hval, big_toNat]
  rw [hW]
  calc lo + 2 ^ (32 * i) * (v.toNat + 2 ^ 32 * hi')
      < 2 ^ (32 * i) * 1 + 2 ^ (32 * i) * (v.toNat + 2 ^ 32 * hi') := by omega
    _ = 2 ^ (32 * i) * (1 + v.toNat + 2 ^ 32 * hi') := by ring
    _ ≤ 2 ^ (32 * i) * (2 ^ 32 * 2 ^ (Config.W - 32 * (i + 1))) := by
        refine Nat.mul_le_mul_left _ ?_
        calc 1 + v.toNat + 2 ^ 32 * hi' ≤ 2 ^ 32 * (1 + hi') := by omega
          _ ≤ _ := Nat.mul_le_mul_left _ (by omega)

theorem limb_setLimb_same (x : Big) (i : Nat) (v : Word) (hi : i < Config.NL) : limb (setLimb x i v) i = v := by
  apply BitVec.eq_of_toNat_eq
  rw [limb, setLimb_toNat x i v hi, BitVec.toNat_ofNat, Nat.add_mul_div_left _ _ (Nat.two_pow_pos _),
    Nat.div_eq_of_lt (Nat.mod_lt _ (Nat.two_pow_pos _)), Nat.zero_add, Nat.add_mul_mod_self_left,
    Nat.mod_eq_of_lt v.isLt]

/-- Bit `k` of limb `j` is bit `32·j + k` of the register. -/
theorem limb_getLsbD (x : Big) (j k : Nat) (hk : k < 32) : (limb x j).getLsbD k = x.getLsbD (32 * j + k) := by
  rw [limb, BitVec.getLsbD_ofNat, Nat.testBit_div_two_pow, decide_eq_true hk, Bool.true_and, Nat.add_comm]
  rfl

theorem limb_setLimb_other (x : Big) (i j : Nat) (v : Word) (hi : i < Config.NL) (hij : i ≠ j) :
    limb (setLimb x i v) j = limb x j := by
  apply BitVec.eq_of_toNat_eq
  have hx := limb_parts x i
  have hs := setLimb_toNat x i v hi
  set lo := x.toNat % 2 ^ (32 * i) with hlo
  have hlo' : lo < 2 ^ (32 * i) := Nat.mod_lt _ (Nat.two_pow_pos _)
  set top := x.toNat / 2 ^ (32 * (i + 1))
  simp only [limb, BitVec.toNat_ofNat]
  rcases Nat.lt_or_gt_of_ne hij with h | h
  · obtain ⟨d, rfl⟩ : ∃ d, j = i + 1 + d := ⟨j - (i + 1), by omega⟩
    have hdiv : ∀ w : Nat, w < 2 ^ 32 → (lo + 2 ^ (32 * i) * (w + 2 ^ 32 * top)) / 2 ^ (32 * (i + 1 + d)) =
        top / 2 ^ (32 * d) := by
      intro w hw
      rw [show 32 * (i + 1 + d) = 32 * i + (32 + 32 * d) by ring, pow_add, ← Nat.div_div_eq_div_mul,
        Nat.add_mul_div_left _ _ (Nat.two_pow_pos _), Nat.div_eq_of_lt hlo', Nat.zero_add, pow_add,
        ← Nat.div_div_eq_div_mul, Nat.add_mul_div_left _ _ (Nat.two_pow_pos _), Nat.div_eq_of_lt hw, Nat.zero_add]
    rw [hs, hx, hdiv _ v.isLt, hdiv _ (limb x i).isLt]
  · obtain ⟨d, rfl⟩ : ∃ d, i = j + 1 + d := ⟨i - (j + 1), by omega⟩
    have hmod : ∀ w : Nat, (lo + 2 ^ (32 * (j + 1 + d)) * w) / 2 ^ (32 * j) % 2 ^ 32 = lo / 2 ^ (32 * j) % 2 ^ 32 := by
      intro w
      have e : 2 ^ (32 * (j + 1 + d)) * w = 2 ^ (32 * j) * (2 ^ 32 * (2 ^ (32 * d) * w)) := by ring
      rw [e, Nat.add_mul_div_left _ _ (Nat.two_pow_pos _), Nat.add_mul_mod_self_left]
    rw [hs, hx, hmod, hmod]

/-- R66: a big-number register is its limbs: two registers with equal limbs are equal. -/
theorem big_ext_limbs {x y : Big} (h : ∀ i, i < Config.NL → limb x i = limb y i) : x = y := by
  apply BitVec.eq_of_getLsbD_eq
  intro k hk
  have hW : Config.W = 4096 := rfl
  have hk' : k / 32 < 128 := by omega
  have hb := congrArg (fun w : Word => w.getLsbD (k % 32)) (h (k / 32) hk')
  simp only [limb_getLsbD _ _ _ (Nat.mod_lt k (by omega : 0 < 32)), Nat.div_add_mod] at hb
  exact hb

end Sys2Proof.Machine
end

