-- ==== Sys2Proof/Laws/State.lean ====
section
/-! SUPPORT. One lemma per field for each named update of the state, so that no proof unfolds a record update. -/

namespace Sys2Proof.Machine

variable (s : State)


/-! ### accept -/

@[simp] theorem accept_n (w : Word) : (accept w s).n = s.n := rfl
@[simp] theorem accept_a (w : Word) : (accept w s).a = s.a := rfl
@[simp] theorem accept_e (w : Word) : (accept w s).e = s.e := rfl
@[simp] theorem accept_r (w : Word) : (accept w s).r = s.r := rfl
@[simp] theorem accept_p (w : Word) : (accept w s).p = s.p := rfl
@[simp] theorem accept_q (w : Word) : (accept w s).q = s.q := rfl
@[simp] theorem accept_sk (w : Word) : (accept w s).sk = s.sk := rfl
@[simp] theorem accept_acc (w : Word) : (accept w s).acc = s.acc := rfl
@[simp] theorem accept_neg (w : Word) : (accept w s).neg = s.neg := rfl
@[simp] theorem accept_xact (w : Word) : (accept w s).xact = s.xact := rfl
@[simp] theorem accept_busy (w : Word) : (accept w s).busy = true := rfl
@[simp] theorem accept_done (w : Word) : (accept w s).done = false := rfl
@[simp] theorem accept_flt (w : Word) : (accept w s).flt = false := rfl
@[simp] theorem accept_accErr (w : Word) : (accept w s).accErr = s.accErr := rfl
@[simp] theorem accept_ie (w : Word) : (accept w s).ie = s.ie := rfl
@[simp] theorem accept_j (w : Word) : (accept w s).j = s.j := rfl
@[simp] theorem accept_cmdr (w : Word) : (accept w s).cmdr = w := rfl
@[simp] theorem accept_idlen (w : Word) : (accept w s).idlen = s.idlen := rfl
@[simp] theorem accept_iter (w : Word) : (accept w s).iter = s.iter := rfl
@[simp] theorem accept_xcap (w : Word) : (accept w s).xcap = s.xcap := rfl
@[simp] theorem accept_scap (w : Word) : (accept w s).scap = s.scap := rfl
@[simp] theorem accept_draws (w : Word) : (accept w s).draws = s.draws := rfl
@[simp] theorem accept_code (w : Word) : (accept w s).code = 0 := rfl
@[simp] theorem accept_sub (w : Word) : (accept w s).sub = 0 := rfl
@[simp] theorem accept_port (w : Word) : (accept w s).port = s.port := rfl
@[simp] theorem accept_inputs (w : Word) : (accept w s).inputs = s.inputs := rfl
@[simp] theorem accept_rdata (w : Word) : (accept w s).rdata = s.rdata := rfl

/-! ### complete -/

@[simp] theorem complete_n : (complete s).n = s.n := rfl
@[simp] theorem complete_a : (complete s).a = s.a := rfl
@[simp] theorem complete_e : (complete s).e = s.e := rfl
@[simp] theorem complete_r : (complete s).r = s.r := rfl
@[simp] theorem complete_p : (complete s).p = s.p := rfl
@[simp] theorem complete_q : (complete s).q = s.q := rfl
@[simp] theorem complete_sk : (complete s).sk = s.sk := rfl
@[simp] theorem complete_acc : (complete s).acc = s.acc := rfl
@[simp] theorem complete_neg : (complete s).neg = s.neg := rfl
@[simp] theorem complete_xact : (complete s).xact = s.xact := rfl
@[simp] theorem complete_busy : (complete s).busy = false := rfl
@[simp] theorem complete_done : (complete s).done = true := rfl
@[simp] theorem complete_flt : (complete s).flt = s.flt := rfl
@[simp] theorem complete_accErr : (complete s).accErr = s.accErr := rfl
@[simp] theorem complete_ie : (complete s).ie = s.ie := rfl
@[simp] theorem complete_j : (complete s).j = s.j := rfl
@[simp] theorem complete_cmdr : (complete s).cmdr = s.cmdr := rfl
@[simp] theorem complete_idlen : (complete s).idlen = s.idlen := rfl
@[simp] theorem complete_iter : (complete s).iter = s.iter := rfl
@[simp] theorem complete_xcap : (complete s).xcap = s.xcap := rfl
@[simp] theorem complete_scap : (complete s).scap = s.scap := rfl
@[simp] theorem complete_draws : (complete s).draws = s.draws := rfl
@[simp] theorem complete_code : (complete s).code = s.code := rfl
@[simp] theorem complete_sub : (complete s).sub = s.sub := rfl
@[simp] theorem complete_port : (complete s).port = s.port := rfl
@[simp] theorem complete_inputs : (complete s).inputs = s.inputs := rfl
@[simp] theorem complete_rdata : (complete s).rdata = s.rdata := rfl

/-! ### raiseFault -/

@[simp] theorem raiseFault_n (k : CommandFault) : (raiseFault k s).n = s.n := rfl
@[simp] theorem raiseFault_a (k : CommandFault) : (raiseFault k s).a = s.a := rfl
@[simp] theorem raiseFault_e (k : CommandFault) : (raiseFault k s).e = s.e := rfl
@[simp] theorem raiseFault_r (k : CommandFault) : (raiseFault k s).r = s.r := rfl
@[simp] theorem raiseFault_p (k : CommandFault) : (raiseFault k s).p = s.p := rfl
@[simp] theorem raiseFault_q (k : CommandFault) : (raiseFault k s).q = s.q := rfl
@[simp] theorem raiseFault_sk (k : CommandFault) : (raiseFault k s).sk = s.sk := rfl
@[simp] theorem raiseFault_acc (k : CommandFault) : (raiseFault k s).acc = s.acc := rfl
@[simp] theorem raiseFault_neg (k : CommandFault) : (raiseFault k s).neg = s.neg := rfl
@[simp] theorem raiseFault_xact (k : CommandFault) : (raiseFault k s).xact = s.xact := rfl
@[simp] theorem raiseFault_busy (k : CommandFault) : (raiseFault k s).busy = false := rfl
@[simp] theorem raiseFault_done (k : CommandFault) : (raiseFault k s).done = s.done := rfl
@[simp] theorem raiseFault_flt (k : CommandFault) : (raiseFault k s).flt = true := rfl
@[simp] theorem raiseFault_accErr (k : CommandFault) : (raiseFault k s).accErr = s.accErr := rfl
@[simp] theorem raiseFault_ie (k : CommandFault) : (raiseFault k s).ie = s.ie := rfl
@[simp] theorem raiseFault_j (k : CommandFault) : (raiseFault k s).j = s.j := rfl
@[simp] theorem raiseFault_cmdr (k : CommandFault) : (raiseFault k s).cmdr = s.cmdr := rfl
@[simp] theorem raiseFault_idlen (k : CommandFault) : (raiseFault k s).idlen = s.idlen := rfl
@[simp] theorem raiseFault_iter (k : CommandFault) : (raiseFault k s).iter = s.iter := rfl
@[simp] theorem raiseFault_xcap (k : CommandFault) : (raiseFault k s).xcap = s.xcap := rfl
@[simp] theorem raiseFault_scap (k : CommandFault) : (raiseFault k s).scap = s.scap := rfl
@[simp] theorem raiseFault_draws (k : CommandFault) : (raiseFault k s).draws = s.draws := rfl
@[simp] theorem raiseFault_code (k : CommandFault) : (raiseFault k s).code = k.code := rfl
@[simp] theorem raiseFault_sub (k : CommandFault) : (raiseFault k s).sub = k.sub := rfl
@[simp] theorem raiseFault_port (k : CommandFault) : (raiseFault k s).port = s.port := rfl
@[simp] theorem raiseFault_inputs (k : CommandFault) : (raiseFault k s).inputs = s.inputs := rfl
@[simp] theorem raiseFault_rdata (k : CommandFault) : (raiseFault k s).rdata = s.rdata := rfl

/-! ### acknowledge -/

@[simp] theorem acknowledge_n (v : Word) : (acknowledge v s).n = s.n := rfl
@[simp] theorem acknowledge_a (v : Word) : (acknowledge v s).a = s.a := rfl
@[simp] theorem acknowledge_e (v : Word) : (acknowledge v s).e = s.e := rfl
@[simp] theorem acknowledge_r (v : Word) : (acknowledge v s).r = s.r := rfl
@[simp] theorem acknowledge_p (v : Word) : (acknowledge v s).p = s.p := rfl
@[simp] theorem acknowledge_q (v : Word) : (acknowledge v s).q = s.q := rfl
@[simp] theorem acknowledge_sk (v : Word) : (acknowledge v s).sk = s.sk := rfl
@[simp] theorem acknowledge_acc (v : Word) : (acknowledge v s).acc = s.acc := rfl
@[simp] theorem acknowledge_neg (v : Word) : (acknowledge v s).neg = s.neg := rfl
@[simp] theorem acknowledge_xact (v : Word) : (acknowledge v s).xact = s.xact := rfl
@[simp] theorem acknowledge_busy (v : Word) : (acknowledge v s).busy = s.busy := rfl
@[simp] theorem acknowledge_done (v : Word) : (acknowledge v s).done = (s.done && !v.getLsbD 1) := rfl
@[simp] theorem acknowledge_flt (v : Word) : (acknowledge v s).flt = (s.flt && !v.getLsbD 2) := rfl
@[simp] theorem acknowledge_accErr (v : Word) : (acknowledge v s).accErr = (s.accErr && !v.getLsbD 7) := rfl
@[simp] theorem acknowledge_ie (v : Word) : (acknowledge v s).ie = s.ie := rfl
@[simp] theorem acknowledge_j (v : Word) : (acknowledge v s).j = s.j := rfl
@[simp] theorem acknowledge_cmdr (v : Word) : (acknowledge v s).cmdr = s.cmdr := rfl
@[simp] theorem acknowledge_idlen (v : Word) : (acknowledge v s).idlen = s.idlen := rfl
@[simp] theorem acknowledge_iter (v : Word) : (acknowledge v s).iter = s.iter := rfl
@[simp] theorem acknowledge_xcap (v : Word) : (acknowledge v s).xcap = s.xcap := rfl
@[simp] theorem acknowledge_scap (v : Word) : (acknowledge v s).scap = s.scap := rfl
@[simp] theorem acknowledge_draws (v : Word) : (acknowledge v s).draws = s.draws := rfl
@[simp] theorem acknowledge_code (v : Word) : (acknowledge v s).code = s.code := rfl
@[simp] theorem acknowledge_sub (v : Word) : (acknowledge v s).sub = s.sub := rfl
@[simp] theorem acknowledge_port (v : Word) : (acknowledge v s).port = s.port := rfl
@[simp] theorem acknowledge_inputs (v : Word) : (acknowledge v s).inputs = s.inputs := rfl
@[simp] theorem acknowledge_rdata (v : Word) : (acknowledge v s).rdata = s.rdata := rfl

/-! ### refuseAccess -/

@[simp] theorem refuseAccess_n : (refuseAccess s).n = s.n := rfl
@[simp] theorem refuseAccess_a : (refuseAccess s).a = s.a := rfl
@[simp] theorem refuseAccess_e : (refuseAccess s).e = s.e := rfl
@[simp] theorem refuseAccess_r : (refuseAccess s).r = s.r := rfl
@[simp] theorem refuseAccess_p : (refuseAccess s).p = s.p := rfl
@[simp] theorem refuseAccess_q : (refuseAccess s).q = s.q := rfl
@[simp] theorem refuseAccess_sk : (refuseAccess s).sk = s.sk := rfl
@[simp] theorem refuseAccess_acc : (refuseAccess s).acc = s.acc := rfl
@[simp] theorem refuseAccess_neg : (refuseAccess s).neg = s.neg := rfl
@[simp] theorem refuseAccess_xact : (refuseAccess s).xact = s.xact := rfl
@[simp] theorem refuseAccess_busy : (refuseAccess s).busy = s.busy := rfl
@[simp] theorem refuseAccess_done : (refuseAccess s).done = s.done := rfl
@[simp] theorem refuseAccess_flt : (refuseAccess s).flt = s.flt := rfl
@[simp] theorem refuseAccess_accErr : (refuseAccess s).accErr = true := rfl
@[simp] theorem refuseAccess_ie : (refuseAccess s).ie = s.ie := rfl
@[simp] theorem refuseAccess_j : (refuseAccess s).j = s.j := rfl
@[simp] theorem refuseAccess_cmdr : (refuseAccess s).cmdr = s.cmdr := rfl
@[simp] theorem refuseAccess_idlen : (refuseAccess s).idlen = s.idlen := rfl
@[simp] theorem refuseAccess_iter : (refuseAccess s).iter = s.iter := rfl
@[simp] theorem refuseAccess_xcap : (refuseAccess s).xcap = s.xcap := rfl
@[simp] theorem refuseAccess_scap : (refuseAccess s).scap = s.scap := rfl
@[simp] theorem refuseAccess_draws : (refuseAccess s).draws = s.draws := rfl
@[simp] theorem refuseAccess_code : (refuseAccess s).code = s.code := rfl
@[simp] theorem refuseAccess_sub : (refuseAccess s).sub = s.sub := rfl
@[simp] theorem refuseAccess_port : (refuseAccess s).port = s.port := rfl
@[simp] theorem refuseAccess_inputs : (refuseAccess s).inputs = s.inputs := rfl
@[simp] theorem refuseAccess_rdata : (refuseAccess s).rdata = s.rdata := rfl

/-! ### dropKey -/

@[simp] theorem dropKey_n : (dropKey s).n = s.n := rfl
@[simp] theorem dropKey_a : (dropKey s).a = s.a := rfl
@[simp] theorem dropKey_e : (dropKey s).e = s.e := rfl
@[simp] theorem dropKey_r : (dropKey s).r = s.r := rfl
@[simp] theorem dropKey_p : (dropKey s).p = 0 := rfl
@[simp] theorem dropKey_q : (dropKey s).q = 0 := rfl
@[simp] theorem dropKey_sk : (dropKey s).sk = false := rfl
@[simp] theorem dropKey_acc : (dropKey s).acc = s.acc := rfl
@[simp] theorem dropKey_neg : (dropKey s).neg = s.neg := rfl
@[simp] theorem dropKey_xact : (dropKey s).xact = false := rfl
@[simp] theorem dropKey_busy : (dropKey s).busy = s.busy := rfl
@[simp] theorem dropKey_done : (dropKey s).done = s.done := rfl
@[simp] theorem dropKey_flt : (dropKey s).flt = s.flt := rfl
@[simp] theorem dropKey_accErr : (dropKey s).accErr = s.accErr := rfl
@[simp] theorem dropKey_ie : (dropKey s).ie = s.ie := rfl
@[simp] theorem dropKey_j : (dropKey s).j = s.j := rfl
@[simp] theorem dropKey_cmdr : (dropKey s).cmdr = s.cmdr := rfl
@[simp] theorem dropKey_idlen : (dropKey s).idlen = s.idlen := rfl
@[simp] theorem dropKey_iter : (dropKey s).iter = s.iter := rfl
@[simp] theorem dropKey_xcap : (dropKey s).xcap = s.xcap := rfl
@[simp] theorem dropKey_scap : (dropKey s).scap = s.scap := rfl
@[simp] theorem dropKey_draws : (dropKey s).draws = s.draws := rfl
@[simp] theorem dropKey_code : (dropKey s).code = s.code := rfl
@[simp] theorem dropKey_sub : (dropKey s).sub = s.sub := rfl
@[simp] theorem dropKey_port : (dropKey s).port = s.port := rfl
@[simp] theorem dropKey_inputs : (dropKey s).inputs = s.inputs := rfl
@[simp] theorem dropKey_rdata : (dropKey s).rdata = s.rdata := rfl

/-! ### clearResults -/

@[simp] theorem clearResults_n : (clearResults s).n = s.n := rfl
@[simp] theorem clearResults_a : (clearResults s).a = s.a := rfl
@[simp] theorem clearResults_e : (clearResults s).e = s.e := rfl
@[simp] theorem clearResults_r : (clearResults s).r = 0 := rfl
@[simp] theorem clearResults_p : (clearResults s).p = s.p := rfl
@[simp] theorem clearResults_q : (clearResults s).q = s.q := rfl
@[simp] theorem clearResults_sk : (clearResults s).sk = s.sk := rfl
@[simp] theorem clearResults_acc : (clearResults s).acc = false := rfl
@[simp] theorem clearResults_neg : (clearResults s).neg = false := rfl
@[simp] theorem clearResults_xact : (clearResults s).xact = s.xact := rfl
@[simp] theorem clearResults_busy : (clearResults s).busy = s.busy := rfl
@[simp] theorem clearResults_done : (clearResults s).done = s.done := rfl
@[simp] theorem clearResults_flt : (clearResults s).flt = s.flt := rfl
@[simp] theorem clearResults_accErr : (clearResults s).accErr = s.accErr := rfl
@[simp] theorem clearResults_ie : (clearResults s).ie = s.ie := rfl
@[simp] theorem clearResults_j : (clearResults s).j = .zero := rfl
@[simp] theorem clearResults_cmdr : (clearResults s).cmdr = s.cmdr := rfl
@[simp] theorem clearResults_idlen : (clearResults s).idlen = s.idlen := rfl
@[simp] theorem clearResults_iter : (clearResults s).iter = s.iter := rfl
@[simp] theorem clearResults_xcap : (clearResults s).xcap = s.xcap := rfl
@[simp] theorem clearResults_scap : (clearResults s).scap = s.scap := rfl
@[simp] theorem clearResults_draws : (clearResults s).draws = s.draws := rfl
@[simp] theorem clearResults_code : (clearResults s).code = s.code := rfl
@[simp] theorem clearResults_sub : (clearResults s).sub = s.sub := rfl
@[simp] theorem clearResults_port : (clearResults s).port = s.port := rfl
@[simp] theorem clearResults_inputs : (clearResults s).inputs = s.inputs := rfl
@[simp] theorem clearResults_rdata : (clearResults s).rdata = s.rdata := rfl

/-! ### clearInstance -/

@[simp] theorem clearInstance_n : (clearInstance s).n = 0 := rfl
@[simp] theorem clearInstance_a : (clearInstance s).a = s.a := rfl
@[simp] theorem clearInstance_e : (clearInstance s).e = s.e := rfl
@[simp] theorem clearInstance_r : (clearInstance s).r = 0 := rfl
@[simp] theorem clearInstance_p : (clearInstance s).p = 0 := rfl
@[simp] theorem clearInstance_q : (clearInstance s).q = 0 := rfl
@[simp] theorem clearInstance_sk : (clearInstance s).sk = false := rfl
@[simp] theorem clearInstance_acc : (clearInstance s).acc = false := rfl
@[simp] theorem clearInstance_neg : (clearInstance s).neg = false := rfl
@[simp] theorem clearInstance_xact : (clearInstance s).xact = false := rfl
@[simp] theorem clearInstance_busy : (clearInstance s).busy = s.busy := rfl
@[simp] theorem clearInstance_done : (clearInstance s).done = s.done := rfl
@[simp] theorem clearInstance_flt : (clearInstance s).flt = s.flt := rfl
@[simp] theorem clearInstance_accErr : (clearInstance s).accErr = s.accErr := rfl
@[simp] theorem clearInstance_ie : (clearInstance s).ie = s.ie := rfl
@[simp] theorem clearInstance_j : (clearInstance s).j = .zero := rfl
@[simp] theorem clearInstance_cmdr : (clearInstance s).cmdr = s.cmdr := rfl
@[simp] theorem clearInstance_idlen : (clearInstance s).idlen = s.idlen := rfl
@[simp] theorem clearInstance_iter : (clearInstance s).iter = s.iter := rfl
@[simp] theorem clearInstance_xcap : (clearInstance s).xcap = s.xcap := rfl
@[simp] theorem clearInstance_scap : (clearInstance s).scap = s.scap := rfl
@[simp] theorem clearInstance_draws : (clearInstance s).draws = 0 := rfl
@[simp] theorem clearInstance_code : (clearInstance s).code = s.code := rfl
@[simp] theorem clearInstance_sub : (clearInstance s).sub = s.sub := rfl
@[simp] theorem clearInstance_port : (clearInstance s).port = s.port := rfl
@[simp] theorem clearInstance_inputs : (clearInstance s).inputs = s.inputs := rfl
@[simp] theorem clearInstance_rdata : (clearInstance s).rdata = s.rdata := rfl

/-! ### afterDraws -/

@[simp] theorem afterDraws_n (run : DrawRun) : (afterDraws run s).n = s.n := rfl
@[simp] theorem afterDraws_a (run : DrawRun) : (afterDraws run s).a = s.a := rfl
@[simp] theorem afterDraws_e (run : DrawRun) : (afterDraws run s).e = s.e := rfl
@[simp] theorem afterDraws_r (run : DrawRun) : (afterDraws run s).r = s.r := rfl
@[simp] theorem afterDraws_p (run : DrawRun) : (afterDraws run s).p = s.p := rfl
@[simp] theorem afterDraws_q (run : DrawRun) : (afterDraws run s).q = s.q := rfl
@[simp] theorem afterDraws_sk (run : DrawRun) : (afterDraws run s).sk = s.sk := rfl
@[simp] theorem afterDraws_acc (run : DrawRun) : (afterDraws run s).acc = s.acc := rfl
@[simp] theorem afterDraws_neg (run : DrawRun) : (afterDraws run s).neg = s.neg := rfl
@[simp] theorem afterDraws_xact (run : DrawRun) : (afterDraws run s).xact = s.xact := rfl
@[simp] theorem afterDraws_busy (run : DrawRun) : (afterDraws run s).busy = s.busy := rfl
@[simp] theorem afterDraws_done (run : DrawRun) : (afterDraws run s).done = s.done := rfl
@[simp] theorem afterDraws_flt (run : DrawRun) : (afterDraws run s).flt = s.flt := rfl
@[simp] theorem afterDraws_accErr (run : DrawRun) : (afterDraws run s).accErr = s.accErr := rfl
@[simp] theorem afterDraws_ie (run : DrawRun) : (afterDraws run s).ie = s.ie := rfl
@[simp] theorem afterDraws_j (run : DrawRun) : (afterDraws run s).j = s.j := rfl
@[simp] theorem afterDraws_cmdr (run : DrawRun) : (afterDraws run s).cmdr = s.cmdr := rfl
@[simp] theorem afterDraws_idlen (run : DrawRun) : (afterDraws run s).idlen = s.idlen := rfl
@[simp] theorem afterDraws_iter (run : DrawRun) : (afterDraws run s).iter = s.iter := rfl
@[simp] theorem afterDraws_xcap (run : DrawRun) : (afterDraws run s).xcap = s.xcap := rfl
@[simp] theorem afterDraws_scap (run : DrawRun) : (afterDraws run s).scap = s.scap := rfl
@[simp] theorem afterDraws_draws (run : DrawRun) : (afterDraws run s).draws = BitVec.ofNat 32 run.draws := rfl
@[simp] theorem afterDraws_code (run : DrawRun) : (afterDraws run s).code = s.code := rfl
@[simp] theorem afterDraws_sub (run : DrawRun) : (afterDraws run s).sub = s.sub := rfl
@[simp] theorem afterDraws_port (run : DrawRun) : (afterDraws run s).port = run.port := rfl
@[simp] theorem afterDraws_inputs (run : DrawRun) : (afterDraws run s).inputs = s.inputs := rfl
@[simp] theorem afterDraws_rdata (run : DrawRun) : (afterDraws run s).rdata = s.rdata := rfl

/-! ### commitKey -/

@[simp] theorem commitKey_n (p q : Nat) : (commitKey p q s).n = big (p * q) := rfl
@[simp] theorem commitKey_a (p q : Nat) : (commitKey p q s).a = s.a := rfl
@[simp] theorem commitKey_e (p q : Nat) : (commitKey p q s).e = s.e := rfl
@[simp] theorem commitKey_r (p q : Nat) : (commitKey p q s).r = s.r := rfl
@[simp] theorem commitKey_p (p q : Nat) : (commitKey p q s).p = big p := rfl
@[simp] theorem commitKey_q (p q : Nat) : (commitKey p q s).q = big q := rfl
@[simp] theorem commitKey_sk (p q : Nat) : (commitKey p q s).sk = true := rfl
@[simp] theorem commitKey_acc (p q : Nat) : (commitKey p q s).acc = s.acc := rfl
@[simp] theorem commitKey_neg (p q : Nat) : (commitKey p q s).neg = s.neg := rfl
@[simp] theorem commitKey_xact (p q : Nat) : (commitKey p q s).xact = s.xact := rfl
@[simp] theorem commitKey_busy (p q : Nat) : (commitKey p q s).busy = s.busy := rfl
@[simp] theorem commitKey_done (p q : Nat) : (commitKey p q s).done = s.done := rfl
@[simp] theorem commitKey_flt (p q : Nat) : (commitKey p q s).flt = s.flt := rfl
@[simp] theorem commitKey_accErr (p q : Nat) : (commitKey p q s).accErr = s.accErr := rfl
@[simp] theorem commitKey_ie (p q : Nat) : (commitKey p q s).ie = s.ie := rfl
@[simp] theorem commitKey_j (p q : Nat) : (commitKey p q s).j = s.j := rfl
@[simp] theorem commitKey_cmdr (p q : Nat) : (commitKey p q s).cmdr = s.cmdr := rfl
@[simp] theorem commitKey_idlen (p q : Nat) : (commitKey p q s).idlen = s.idlen := rfl
@[simp] theorem commitKey_iter (p q : Nat) : (commitKey p q s).iter = s.iter := rfl
@[simp] theorem commitKey_xcap (p q : Nat) : (commitKey p q s).xcap = s.xcap := rfl
@[simp] theorem commitKey_scap (p q : Nat) : (commitKey p q s).scap = s.scap := rfl
@[simp] theorem commitKey_draws (p q : Nat) : (commitKey p q s).draws = s.draws := rfl
@[simp] theorem commitKey_code (p q : Nat) : (commitKey p q s).code = s.code := rfl
@[simp] theorem commitKey_sub (p q : Nat) : (commitKey p q s).sub = s.sub := rfl
@[simp] theorem commitKey_port (p q : Nat) : (commitKey p q s).port = s.port := rfl
@[simp] theorem commitKey_inputs (p q : Nat) : (commitKey p q s).inputs = s.inputs := rfl
@[simp] theorem commitKey_rdata (p q : Nat) : (commitKey p q s).rdata = s.rdata := rfl

/-! ### clearSession -/

@[simp] theorem clearSession_n : (clearSession s).n = s.n := rfl
@[simp] theorem clearSession_a : (clearSession s).a = s.a := rfl
@[simp] theorem clearSession_e : (clearSession s).e = s.e := rfl
@[simp] theorem clearSession_r : (clearSession s).r = 0 := rfl
@[simp] theorem clearSession_p : (clearSession s).p = s.p := rfl
@[simp] theorem clearSession_q : (clearSession s).q = s.q := rfl
@[simp] theorem clearSession_sk : (clearSession s).sk = s.sk := rfl
@[simp] theorem clearSession_acc : (clearSession s).acc = false := rfl
@[simp] theorem clearSession_neg : (clearSession s).neg = false := rfl
@[simp] theorem clearSession_xact : (clearSession s).xact = false := rfl
@[simp] theorem clearSession_busy : (clearSession s).busy = s.busy := rfl
@[simp] theorem clearSession_done : (clearSession s).done = s.done := rfl
@[simp] theorem clearSession_flt : (clearSession s).flt = s.flt := rfl
@[simp] theorem clearSession_accErr : (clearSession s).accErr = s.accErr := rfl
@[simp] theorem clearSession_ie : (clearSession s).ie = s.ie := rfl
@[simp] theorem clearSession_j : (clearSession s).j = .zero := rfl
@[simp] theorem clearSession_cmdr : (clearSession s).cmdr = s.cmdr := rfl
@[simp] theorem clearSession_idlen : (clearSession s).idlen = s.idlen := rfl
@[simp] theorem clearSession_iter : (clearSession s).iter = 0 := rfl
@[simp] theorem clearSession_xcap : (clearSession s).xcap = s.xcap := rfl
@[simp] theorem clearSession_scap : (clearSession s).scap = s.scap := rfl
@[simp] theorem clearSession_draws : (clearSession s).draws = s.draws := rfl
@[simp] theorem clearSession_code : (clearSession s).code = s.code := rfl
@[simp] theorem clearSession_sub : (clearSession s).sub = s.sub := rfl
@[simp] theorem clearSession_port : (clearSession s).port = s.port := rfl
@[simp] theorem clearSession_inputs : (clearSession s).inputs = s.inputs := rfl
@[simp] theorem clearSession_rdata : (clearSession s).rdata = s.rdata := rfl

/-! ### testCandidate -/

@[simp] theorem testCandidate_n : (testCandidate s).n = s.n := rfl
@[simp] theorem testCandidate_a : (testCandidate s).a = s.a := rfl
@[simp] theorem testCandidate_e : (testCandidate s).e = s.e := rfl
@[simp] theorem testCandidate_r : (testCandidate s).r = s.r := rfl
@[simp] theorem testCandidate_p : (testCandidate s).p = s.p := rfl
@[simp] theorem testCandidate_q : (testCandidate s).q = s.q := rfl
@[simp] theorem testCandidate_sk : (testCandidate s).sk = s.sk := rfl
@[simp] theorem testCandidate_acc : (testCandidate s).acc = s.acc := rfl
@[simp] theorem testCandidate_neg : (testCandidate s).neg = s.neg := rfl
@[simp] theorem testCandidate_xact : (testCandidate s).xact = s.xact := rfl
@[simp] theorem testCandidate_busy : (testCandidate s).busy = s.busy := rfl
@[simp] theorem testCandidate_done : (testCandidate s).done = s.done := rfl
@[simp] theorem testCandidate_flt : (testCandidate s).flt = s.flt := rfl
@[simp] theorem testCandidate_accErr : (testCandidate s).accErr = s.accErr := rfl
@[simp] theorem testCandidate_ie : (testCandidate s).ie = s.ie := rfl
@[simp] theorem testCandidate_j : (testCandidate s).j = jacobi s.a.toNat s.n.toNat := rfl
@[simp] theorem testCandidate_cmdr : (testCandidate s).cmdr = s.cmdr := rfl
@[simp] theorem testCandidate_idlen : (testCandidate s).idlen = s.idlen := rfl
@[simp] theorem testCandidate_iter : (testCandidate s).iter = s.iter + 1 := rfl
@[simp] theorem testCandidate_xcap : (testCandidate s).xcap = s.xcap := rfl
@[simp] theorem testCandidate_scap : (testCandidate s).scap = s.scap := rfl
@[simp] theorem testCandidate_draws : (testCandidate s).draws = s.draws := rfl
@[simp] theorem testCandidate_code : (testCandidate s).code = s.code := rfl
@[simp] theorem testCandidate_sub : (testCandidate s).sub = s.sub := rfl
@[simp] theorem testCandidate_port : (testCandidate s).port = s.port := rfl
@[simp] theorem testCandidate_inputs : (testCandidate s).inputs = s.inputs := rfl
@[simp] theorem testCandidate_rdata : (testCandidate s).rdata = s.rdata := rfl

/-! ### setJ -/

@[simp] theorem setJ_n (v : JacobiValue) : (setJ v s).n = s.n := rfl
@[simp] theorem setJ_a (v : JacobiValue) : (setJ v s).a = s.a := rfl
@[simp] theorem setJ_e (v : JacobiValue) : (setJ v s).e = s.e := rfl
@[simp] theorem setJ_r (v : JacobiValue) : (setJ v s).r = s.r := rfl
@[simp] theorem setJ_p (v : JacobiValue) : (setJ v s).p = s.p := rfl
@[simp] theorem setJ_q (v : JacobiValue) : (setJ v s).q = s.q := rfl
@[simp] theorem setJ_sk (v : JacobiValue) : (setJ v s).sk = s.sk := rfl
@[simp] theorem setJ_acc (v : JacobiValue) : (setJ v s).acc = s.acc := rfl
@[simp] theorem setJ_neg (v : JacobiValue) : (setJ v s).neg = s.neg := rfl
@[simp] theorem setJ_xact (v : JacobiValue) : (setJ v s).xact = s.xact := rfl
@[simp] theorem setJ_busy (v : JacobiValue) : (setJ v s).busy = s.busy := rfl
@[simp] theorem setJ_done (v : JacobiValue) : (setJ v s).done = s.done := rfl
@[simp] theorem setJ_flt (v : JacobiValue) : (setJ v s).flt = s.flt := rfl
@[simp] theorem setJ_accErr (v : JacobiValue) : (setJ v s).accErr = s.accErr := rfl
@[simp] theorem setJ_ie (v : JacobiValue) : (setJ v s).ie = s.ie := rfl
@[simp] theorem setJ_j (v : JacobiValue) : (setJ v s).j = v := rfl
@[simp] theorem setJ_cmdr (v : JacobiValue) : (setJ v s).cmdr = s.cmdr := rfl
@[simp] theorem setJ_idlen (v : JacobiValue) : (setJ v s).idlen = s.idlen := rfl
@[simp] theorem setJ_iter (v : JacobiValue) : (setJ v s).iter = s.iter := rfl
@[simp] theorem setJ_xcap (v : JacobiValue) : (setJ v s).xcap = s.xcap := rfl
@[simp] theorem setJ_scap (v : JacobiValue) : (setJ v s).scap = s.scap := rfl
@[simp] theorem setJ_draws (v : JacobiValue) : (setJ v s).draws = s.draws := rfl
@[simp] theorem setJ_code (v : JacobiValue) : (setJ v s).code = s.code := rfl
@[simp] theorem setJ_sub (v : JacobiValue) : (setJ v s).sub = s.sub := rfl
@[simp] theorem setJ_port (v : JacobiValue) : (setJ v s).port = s.port := rfl
@[simp] theorem setJ_inputs (v : JacobiValue) : (setJ v s).inputs = s.inputs := rfl
@[simp] theorem setJ_rdata (v : JacobiValue) : (setJ v s).rdata = s.rdata := rfl

/-! ### setR -/

@[simp] theorem setR_n (v : Nat) : (setR v s).n = s.n := rfl
@[simp] theorem setR_a (v : Nat) : (setR v s).a = s.a := rfl
@[simp] theorem setR_e (v : Nat) : (setR v s).e = s.e := rfl
@[simp] theorem setR_r (v : Nat) : (setR v s).r = big v := rfl
@[simp] theorem setR_p (v : Nat) : (setR v s).p = s.p := rfl
@[simp] theorem setR_q (v : Nat) : (setR v s).q = s.q := rfl
@[simp] theorem setR_sk (v : Nat) : (setR v s).sk = s.sk := rfl
@[simp] theorem setR_acc (v : Nat) : (setR v s).acc = s.acc := rfl
@[simp] theorem setR_neg (v : Nat) : (setR v s).neg = s.neg := rfl
@[simp] theorem setR_xact (v : Nat) : (setR v s).xact = s.xact := rfl
@[simp] theorem setR_busy (v : Nat) : (setR v s).busy = s.busy := rfl
@[simp] theorem setR_done (v : Nat) : (setR v s).done = s.done := rfl
@[simp] theorem setR_flt (v : Nat) : (setR v s).flt = s.flt := rfl
@[simp] theorem setR_accErr (v : Nat) : (setR v s).accErr = s.accErr := rfl
@[simp] theorem setR_ie (v : Nat) : (setR v s).ie = s.ie := rfl
@[simp] theorem setR_j (v : Nat) : (setR v s).j = s.j := rfl
@[simp] theorem setR_cmdr (v : Nat) : (setR v s).cmdr = s.cmdr := rfl
@[simp] theorem setR_idlen (v : Nat) : (setR v s).idlen = s.idlen := rfl
@[simp] theorem setR_iter (v : Nat) : (setR v s).iter = s.iter := rfl
@[simp] theorem setR_xcap (v : Nat) : (setR v s).xcap = s.xcap := rfl
@[simp] theorem setR_scap (v : Nat) : (setR v s).scap = s.scap := rfl
@[simp] theorem setR_draws (v : Nat) : (setR v s).draws = s.draws := rfl
@[simp] theorem setR_code (v : Nat) : (setR v s).code = s.code := rfl
@[simp] theorem setR_sub (v : Nat) : (setR v s).sub = s.sub := rfl
@[simp] theorem setR_port (v : Nat) : (setR v s).port = s.port := rfl
@[simp] theorem setR_inputs (v : Nat) : (setR v s).inputs = s.inputs := rfl
@[simp] theorem setR_rdata (v : Nat) : (setR v s).rdata = s.rdata := rfl

/-! ### dropRoot -/

@[simp] theorem dropRoot_n : (dropRoot s).n = s.n := rfl
@[simp] theorem dropRoot_a : (dropRoot s).a = s.a := rfl
@[simp] theorem dropRoot_e : (dropRoot s).e = s.e := rfl
@[simp] theorem dropRoot_r : (dropRoot s).r = 0 := rfl
@[simp] theorem dropRoot_p : (dropRoot s).p = s.p := rfl
@[simp] theorem dropRoot_q : (dropRoot s).q = s.q := rfl
@[simp] theorem dropRoot_sk : (dropRoot s).sk = s.sk := rfl
@[simp] theorem dropRoot_acc : (dropRoot s).acc = s.acc := rfl
@[simp] theorem dropRoot_neg : (dropRoot s).neg = false := rfl
@[simp] theorem dropRoot_xact : (dropRoot s).xact = s.xact := rfl
@[simp] theorem dropRoot_busy : (dropRoot s).busy = s.busy := rfl
@[simp] theorem dropRoot_done : (dropRoot s).done = s.done := rfl
@[simp] theorem dropRoot_flt : (dropRoot s).flt = s.flt := rfl
@[simp] theorem dropRoot_accErr : (dropRoot s).accErr = s.accErr := rfl
@[simp] theorem dropRoot_ie : (dropRoot s).ie = s.ie := rfl
@[simp] theorem dropRoot_j : (dropRoot s).j = s.j := rfl
@[simp] theorem dropRoot_cmdr : (dropRoot s).cmdr = s.cmdr := rfl
@[simp] theorem dropRoot_idlen : (dropRoot s).idlen = s.idlen := rfl
@[simp] theorem dropRoot_iter : (dropRoot s).iter = s.iter := rfl
@[simp] theorem dropRoot_xcap : (dropRoot s).xcap = s.xcap := rfl
@[simp] theorem dropRoot_scap : (dropRoot s).scap = s.scap := rfl
@[simp] theorem dropRoot_draws : (dropRoot s).draws = s.draws := rfl
@[simp] theorem dropRoot_code : (dropRoot s).code = s.code := rfl
@[simp] theorem dropRoot_sub : (dropRoot s).sub = s.sub := rfl
@[simp] theorem dropRoot_port : (dropRoot s).port = s.port := rfl
@[simp] theorem dropRoot_inputs : (dropRoot s).inputs = s.inputs := rfl
@[simp] theorem dropRoot_rdata : (dropRoot s).rdata = s.rdata := rfl

/-! ### storeRoot -/

@[simp] theorem storeRoot_n : (storeRoot s).n = s.n := rfl
@[simp] theorem storeRoot_a : (storeRoot s).a = s.a := rfl
@[simp] theorem storeRoot_e : (storeRoot s).e = s.e := rfl
@[simp] theorem storeRoot_r : (storeRoot s).r = big s.root := rfl
@[simp] theorem storeRoot_p : (storeRoot s).p = s.p := rfl
@[simp] theorem storeRoot_q : (storeRoot s).q = s.q := rfl
@[simp] theorem storeRoot_sk : (storeRoot s).sk = s.sk := rfl
@[simp] theorem storeRoot_acc : (storeRoot s).acc = s.acc := rfl
@[simp] theorem storeRoot_neg : (storeRoot s).neg = s.rootCheck.negFlag := rfl
@[simp] theorem storeRoot_xact : (storeRoot s).xact = s.xact := rfl
@[simp] theorem storeRoot_busy : (storeRoot s).busy = s.busy := rfl
@[simp] theorem storeRoot_done : (storeRoot s).done = s.done := rfl
@[simp] theorem storeRoot_flt : (storeRoot s).flt = s.flt := rfl
@[simp] theorem storeRoot_accErr : (storeRoot s).accErr = s.accErr := rfl
@[simp] theorem storeRoot_ie : (storeRoot s).ie = s.ie := rfl
@[simp] theorem storeRoot_j : (storeRoot s).j = s.j := rfl
@[simp] theorem storeRoot_cmdr : (storeRoot s).cmdr = s.cmdr := rfl
@[simp] theorem storeRoot_idlen : (storeRoot s).idlen = s.idlen := rfl
@[simp] theorem storeRoot_iter : (storeRoot s).iter = s.iter := rfl
@[simp] theorem storeRoot_xcap : (storeRoot s).xcap = s.xcap := rfl
@[simp] theorem storeRoot_scap : (storeRoot s).scap = s.scap := rfl
@[simp] theorem storeRoot_draws : (storeRoot s).draws = s.draws := rfl
@[simp] theorem storeRoot_code : (storeRoot s).code = s.code := rfl
@[simp] theorem storeRoot_sub : (storeRoot s).sub = s.sub := rfl
@[simp] theorem storeRoot_port : (storeRoot s).port = s.port := rfl
@[simp] theorem storeRoot_inputs : (storeRoot s).inputs = s.inputs := rfl
@[simp] theorem storeRoot_rdata : (storeRoot s).rdata = s.rdata := rfl

/-! ### setAcc -/

@[simp] theorem setAcc_n (b : Bool) : (setAcc b s).n = s.n := rfl
@[simp] theorem setAcc_a (b : Bool) : (setAcc b s).a = s.a := rfl
@[simp] theorem setAcc_e (b : Bool) : (setAcc b s).e = s.e := rfl
@[simp] theorem setAcc_r (b : Bool) : (setAcc b s).r = s.r := rfl
@[simp] theorem setAcc_p (b : Bool) : (setAcc b s).p = s.p := rfl
@[simp] theorem setAcc_q (b : Bool) : (setAcc b s).q = s.q := rfl
@[simp] theorem setAcc_sk (b : Bool) : (setAcc b s).sk = s.sk := rfl
@[simp] theorem setAcc_acc (b : Bool) : (setAcc b s).acc = b := rfl
@[simp] theorem setAcc_neg (b : Bool) : (setAcc b s).neg = s.neg := rfl
@[simp] theorem setAcc_xact (b : Bool) : (setAcc b s).xact = s.xact := rfl
@[simp] theorem setAcc_busy (b : Bool) : (setAcc b s).busy = s.busy := rfl
@[simp] theorem setAcc_done (b : Bool) : (setAcc b s).done = s.done := rfl
@[simp] theorem setAcc_flt (b : Bool) : (setAcc b s).flt = s.flt := rfl
@[simp] theorem setAcc_accErr (b : Bool) : (setAcc b s).accErr = s.accErr := rfl
@[simp] theorem setAcc_ie (b : Bool) : (setAcc b s).ie = s.ie := rfl
@[simp] theorem setAcc_j (b : Bool) : (setAcc b s).j = s.j := rfl
@[simp] theorem setAcc_cmdr (b : Bool) : (setAcc b s).cmdr = s.cmdr := rfl
@[simp] theorem setAcc_idlen (b : Bool) : (setAcc b s).idlen = s.idlen := rfl
@[simp] theorem setAcc_iter (b : Bool) : (setAcc b s).iter = s.iter := rfl
@[simp] theorem setAcc_xcap (b : Bool) : (setAcc b s).xcap = s.xcap := rfl
@[simp] theorem setAcc_scap (b : Bool) : (setAcc b s).scap = s.scap := rfl
@[simp] theorem setAcc_draws (b : Bool) : (setAcc b s).draws = s.draws := rfl
@[simp] theorem setAcc_code (b : Bool) : (setAcc b s).code = s.code := rfl
@[simp] theorem setAcc_sub (b : Bool) : (setAcc b s).sub = s.sub := rfl
@[simp] theorem setAcc_port (b : Bool) : (setAcc b s).port = s.port := rfl
@[simp] theorem setAcc_inputs (b : Bool) : (setAcc b s).inputs = s.inputs := rfl
@[simp] theorem setAcc_rdata (b : Bool) : (setAcc b s).rdata = s.rdata := rfl

/-! ### setSession -/

@[simp] theorem setSession_n (b : Bool) : (setSession b s).n = s.n := rfl
@[simp] theorem setSession_a (b : Bool) : (setSession b s).a = s.a := rfl
@[simp] theorem setSession_e (b : Bool) : (setSession b s).e = s.e := rfl
@[simp] theorem setSession_r (b : Bool) : (setSession b s).r = s.r := rfl
@[simp] theorem setSession_p (b : Bool) : (setSession b s).p = s.p := rfl
@[simp] theorem setSession_q (b : Bool) : (setSession b s).q = s.q := rfl
@[simp] theorem setSession_sk (b : Bool) : (setSession b s).sk = s.sk := rfl
@[simp] theorem setSession_acc (b : Bool) : (setSession b s).acc = s.acc := rfl
@[simp] theorem setSession_neg (b : Bool) : (setSession b s).neg = s.neg := rfl
@[simp] theorem setSession_xact (b : Bool) : (setSession b s).xact = b := rfl
@[simp] theorem setSession_busy (b : Bool) : (setSession b s).busy = s.busy := rfl
@[simp] theorem setSession_done (b : Bool) : (setSession b s).done = s.done := rfl
@[simp] theorem setSession_flt (b : Bool) : (setSession b s).flt = s.flt := rfl
@[simp] theorem setSession_accErr (b : Bool) : (setSession b s).accErr = s.accErr := rfl
@[simp] theorem setSession_ie (b : Bool) : (setSession b s).ie = s.ie := rfl
@[simp] theorem setSession_j (b : Bool) : (setSession b s).j = s.j := rfl
@[simp] theorem setSession_cmdr (b : Bool) : (setSession b s).cmdr = s.cmdr := rfl
@[simp] theorem setSession_idlen (b : Bool) : (setSession b s).idlen = s.idlen := rfl
@[simp] theorem setSession_iter (b : Bool) : (setSession b s).iter = s.iter := rfl
@[simp] theorem setSession_xcap (b : Bool) : (setSession b s).xcap = s.xcap := rfl
@[simp] theorem setSession_scap (b : Bool) : (setSession b s).scap = s.scap := rfl
@[simp] theorem setSession_draws (b : Bool) : (setSession b s).draws = s.draws := rfl
@[simp] theorem setSession_code (b : Bool) : (setSession b s).code = s.code := rfl
@[simp] theorem setSession_sub (b : Bool) : (setSession b s).sub = s.sub := rfl
@[simp] theorem setSession_port (b : Bool) : (setSession b s).port = s.port := rfl
@[simp] theorem setSession_inputs (b : Bool) : (setSession b s).inputs = s.inputs := rfl
@[simp] theorem setSession_rdata (b : Bool) : (setSession b s).rdata = s.rdata := rfl

/-! ### wipe -/

@[simp] theorem wipe_n : (wipe s).n = 0 := rfl
@[simp] theorem wipe_a : (wipe s).a = 0 := rfl
@[simp] theorem wipe_e : (wipe s).e = 0 := rfl
@[simp] theorem wipe_r : (wipe s).r = 0 := rfl
@[simp] theorem wipe_p : (wipe s).p = 0 := rfl
@[simp] theorem wipe_q : (wipe s).q = 0 := rfl
@[simp] theorem wipe_sk : (wipe s).sk = false := rfl
@[simp] theorem wipe_acc : (wipe s).acc = false := rfl
@[simp] theorem wipe_neg : (wipe s).neg = false := rfl
@[simp] theorem wipe_xact : (wipe s).xact = false := rfl
@[simp] theorem wipe_busy : (wipe s).busy = s.busy := rfl
@[simp] theorem wipe_done : (wipe s).done = s.done := rfl
@[simp] theorem wipe_flt : (wipe s).flt = s.flt := rfl
@[simp] theorem wipe_accErr : (wipe s).accErr = s.accErr := rfl
@[simp] theorem wipe_ie : (wipe s).ie = s.ie := rfl
@[simp] theorem wipe_j : (wipe s).j = .zero := rfl
@[simp] theorem wipe_cmdr : (wipe s).cmdr = s.cmdr := rfl
@[simp] theorem wipe_idlen : (wipe s).idlen = 0 := rfl
@[simp] theorem wipe_iter : (wipe s).iter = 0 := rfl
@[simp] theorem wipe_xcap : (wipe s).xcap = s.xcap := rfl
@[simp] theorem wipe_scap : (wipe s).scap = s.scap := rfl
@[simp] theorem wipe_draws : (wipe s).draws = 0 := rfl
@[simp] theorem wipe_code : (wipe s).code = s.code := rfl
@[simp] theorem wipe_sub : (wipe s).sub = s.sub := rfl
@[simp] theorem wipe_port : (wipe s).port = s.port := rfl
@[simp] theorem wipe_inputs : (wipe s).inputs = s.inputs := rfl
@[simp] theorem wipe_rdata : (wipe s).rdata = s.rdata := rfl

/-! ### applyReset -/

@[simp] theorem applyReset_n : (applyReset s).n = 0 := rfl
@[simp] theorem applyReset_a : (applyReset s).a = 0 := rfl
@[simp] theorem applyReset_e : (applyReset s).e = 0 := rfl
@[simp] theorem applyReset_r : (applyReset s).r = 0 := rfl
@[simp] theorem applyReset_p : (applyReset s).p = 0 := rfl
@[simp] theorem applyReset_q : (applyReset s).q = 0 := rfl
@[simp] theorem applyReset_sk : (applyReset s).sk = false := rfl
@[simp] theorem applyReset_acc : (applyReset s).acc = false := rfl
@[simp] theorem applyReset_neg : (applyReset s).neg = false := rfl
@[simp] theorem applyReset_xact : (applyReset s).xact = false := rfl
@[simp] theorem applyReset_busy : (applyReset s).busy = false := rfl
@[simp] theorem applyReset_done : (applyReset s).done = false := rfl
@[simp] theorem applyReset_flt : (applyReset s).flt = false := rfl
@[simp] theorem applyReset_accErr : (applyReset s).accErr = false := rfl
@[simp] theorem applyReset_ie : (applyReset s).ie = false := rfl
@[simp] theorem applyReset_j : (applyReset s).j = .zero := rfl
@[simp] theorem applyReset_cmdr : (applyReset s).cmdr = 0 := rfl
@[simp] theorem applyReset_idlen : (applyReset s).idlen = 0 := rfl
@[simp] theorem applyReset_iter : (applyReset s).iter = 0 := rfl
@[simp] theorem applyReset_xcap : (applyReset s).xcap = 10000 := rfl
@[simp] theorem applyReset_scap : (applyReset s).scap = 10000 := rfl
@[simp] theorem applyReset_draws : (applyReset s).draws = 0 := rfl
@[simp] theorem applyReset_code : (applyReset s).code = 0 := rfl
@[simp] theorem applyReset_sub : (applyReset s).sub = 0 := rfl
@[simp] theorem applyReset_port : (applyReset s).port = s.port := rfl
@[simp] theorem applyReset_inputs : (applyReset s).inputs = s.inputs := rfl
@[simp] theorem applyReset_rdata : (applyReset s).rdata = s.rdata := rfl

/-! ### the root depends on A, P, Q and N alone -/

@[simp] theorem accept_root (w : Word) : (accept w s).root = s.root := rfl
@[simp] theorem accept_rootCheck (w : Word) : (accept w s).rootCheck = s.rootCheck := rfl
@[simp] theorem complete_root : (complete s).root = s.root := rfl
@[simp] theorem complete_rootCheck : (complete s).rootCheck = s.rootCheck := rfl
@[simp] theorem raiseFault_root (k : CommandFault) : (raiseFault k s).root = s.root := rfl
@[simp] theorem raiseFault_rootCheck (k : CommandFault) : (raiseFault k s).rootCheck = s.rootCheck := rfl
@[simp] theorem clearResults_root : (clearResults s).root = s.root := rfl
@[simp] theorem clearResults_rootCheck : (clearResults s).rootCheck = s.rootCheck := rfl
@[simp] theorem afterDraws_root (run : DrawRun) : (afterDraws run s).root = s.root := rfl
@[simp] theorem afterDraws_rootCheck (run : DrawRun) : (afterDraws run s).rootCheck = s.rootCheck := rfl
@[simp] theorem clearSession_root : (clearSession s).root = s.root := rfl
@[simp] theorem clearSession_rootCheck : (clearSession s).rootCheck = s.rootCheck := rfl
@[simp] theorem testCandidate_root : (testCandidate s).root = s.root := rfl
@[simp] theorem testCandidate_rootCheck : (testCandidate s).rootCheck = s.rootCheck := rfl
@[simp] theorem setJ_root (v : JacobiValue) : (setJ v s).root = s.root := rfl
@[simp] theorem setJ_rootCheck (v : JacobiValue) : (setJ v s).rootCheck = s.rootCheck := rfl
@[simp] theorem setR_root (v : Nat) : (setR v s).root = s.root := rfl
@[simp] theorem setR_rootCheck (v : Nat) : (setR v s).rootCheck = s.rootCheck := rfl
@[simp] theorem dropRoot_root : (dropRoot s).root = s.root := rfl
@[simp] theorem dropRoot_rootCheck : (dropRoot s).rootCheck = s.rootCheck := rfl
@[simp] theorem storeRoot_root : (storeRoot s).root = s.root := rfl
@[simp] theorem storeRoot_rootCheck : (storeRoot s).rootCheck = s.rootCheck := rfl
@[simp] theorem setAcc_root (b : Bool) : (setAcc b s).root = s.root := rfl
@[simp] theorem setAcc_rootCheck (b : Bool) : (setAcc b s).rootCheck = s.rootCheck := rfl
@[simp] theorem setSession_root (b : Bool) : (setSession b s).root = s.root := rfl
@[simp] theorem setSession_rootCheck (b : Bool) : (setSession b s).rootCheck = s.rootCheck := rfl

end Sys2Proof.Machine
end

