-- ==== Sys2Proof/Laws/Bus.lean ====
section
/-! SUPPORT. The register map both ways, and everything a bus read and a bus write can do. -/

namespace Sys2Proof.Machine

/-- A register that exists: the limb index of a window is below `NL` (R66). -/
def Reg.present : Reg → Bool
  | .limb _ i => decide (i < Config.NL)
  | _ => true

/-- R61: the word offset of every register of the map finds that register. -/
theorem regAt_offset {reg : Reg} (h : reg.present = true) : regAt reg.offset = some reg := by
  cases reg with
  | limb x i =>
    have hi : i < 128 := of_decide_eq_true h
    obtain ⟨off, hoff⟩ : ∃ off, (Reg.limb x i).offset = off := ⟨_, rfl⟩
    rw [hoff]
    unfold regAt
    cases x <;> simp only [Reg.offset, BigReg.base] at hoff <;> repeat' split
    all_goals first
      | omega
      | (rw [Option.some.injEq, Reg.limb.injEq]; exact ⟨rfl, by omega⟩)
  | _ => rfl

theorem controlReg_offset {k : Nat} {reg : Reg} (h : controlReg k = some reg) :
    reg.offset = 4 * k ∧ reg.present = true := by
  unfold controlReg at h
  split at h <;> first | (cases h; exact ⟨rfl, rfl⟩) | cases h

/-- R61: what a multiple of 4 finds stands at that offset. -/
theorem offset_of_regAt {off : Nat} {reg : Reg} (h4 : off % 4 = 0) (h : regAt off = some reg) :
    reg.offset = off ∧ reg.present = true := by
  unfold regAt at h
  split at h
  · obtain ⟨h1, h2⟩ := controlReg_offset h
    exact ⟨by omega, h2⟩
  · repeat' split at h
    all_goals first
      | (cases h
         refine ⟨by simp only [Reg.offset, BigReg.base]; omega, decide_eq_true ?_⟩
         change _ < 128
         omega)
      | cases h

/-- Everything a bus read can do (R63). -/
theorem busRead_cases (off : Offset) (size : Nat) (s : State) :
    busRead off size s = (0, refuseAccess s) ∨
    (wordAccess off size = true ∧ ∃ reg, regAt off.toNat = some reg ∧ (s.busy = true → readableWhileBusy reg = true) ∧
      busRead off size s = (readReg s reg, s)) := by
  unfold busRead
  cases hw : wordAccess off size with
  | false => exact .inl (if_pos rfl)
  | true =>
    rw [if_neg (by decide)]
    cases hr : regAt off.toNat with
    | none => exact .inl rfl
    | some reg =>
      simp only
      cases hb : s.busy && !readableWhileBusy reg with
      | true => exact .inl (if_pos rfl)
      | false =>
        refine .inr ⟨trivial, reg, rfl, fun hbusy => ?_, if_neg (by decide)⟩
        simpa [hbusy] using hb

/-- Everything a bus write can do (R64). -/
theorem busWrite_cases (off : Offset) (size : Nat) (v : Word) (s : State) :
    busWrite off size v s = refuseAccess s ∨
    (wordAccess off size = true ∧ ∃ reg t, regAt off.toNat = some reg ∧
      (s.busy = true → writableWhileBusy reg = true) ∧ writeReg s v reg = some t ∧ busWrite off size v s = t) := by
  unfold busWrite
  cases hw : wordAccess off size with
  | false => exact .inl (if_pos rfl)
  | true =>
    rw [if_neg (by decide)]
    cases hr : regAt off.toNat with
    | none => exact .inl rfl
    | some reg =>
      simp only
      cases hb : s.busy && !writableWhileBusy reg with
      | true => exact .inl (if_pos rfl)
      | false =>
        rw [if_neg (by decide)]
        cases ht : writeReg s v reg with
        | none => exact .inl rfl
        | some t => exact .inr ⟨trivial, reg, t, rfl, fun hbusy => by simpa [hbusy] using hb, ht, rfl⟩

/-- Everything a write to a mapped register can do (R64). -/
theorem writeReg_cases {s t : State} {v : Word} {reg : Reg} (h : writeReg s v reg = some t) :
    (reg = .cmd ∧ t = accept v s) ∨ (reg = .status ∧ t = acknowledge v s) ∨
    (reg = .ctrl ∧ t = { s with ie := v.getLsbD 0 }) ∨ (reg = .idlen ∧ t = { s with idlen := v }) ∨
    (reg = .xcap ∧ t = { s with xcap := v }) ∨ (reg = .scap ∧ t = { s with scap := v }) ∨
    (∃ i, reg = .limb .n i ∧ t = dropKey { s with n := setLimb s.n i v }) ∨
    (∃ i, reg = .limb .a i ∧ t = { s with a := setLimb s.a i v }) ∨
    (∃ i, reg = .limb .e i ∧ t = { s with e := setLimb s.e i v }) := by
  cases reg with
  | limb x i => cases x <;> cases h <;> simp
  | _ => cases h <;> simp

end Sys2Proof.Machine
end

