-- ==== Sys2Proof/Laws/Setup.lean ====
section
/-! SUPPORT. Everything a draw, a loop of SETUP and the whole search can do: one lemma each, for the callers to
cite instead of unfolding. -/

namespace Sys2Proof.Machine

/-- A run of draws `k` draws later: the counter and the port move together. -/
def DrawRun.skip (k : Nat) (run : DrawRun) : DrawRun := { draws := run.draws + k, port := run.port.skip k }

@[simp] theorem DrawRun.skip_draws (k : Nat) (run : DrawRun) : (run.skip k).draws = run.draws + k := rfl

@[simp] theorem DrawRun.skip_port (k : Nat) (run : DrawRun) : (run.skip k).port = run.port.skip k := rfl

@[simp] theorem RandomPort.skip_silent (k : Nat) (port : RandomPort) : (port.skip k).silent = port.silent := rfl

@[simp] theorem RandomPort.skip_answers (k : Nat) (port : RandomPort) : (port.skip k).answers = port.answers.drop k := rfl

@[simp] theorem RandomPort.skip_taken (k : Nat) (port : RandomPort) : (port.skip k).taken = port.taken + k := rfl

@[simp] theorem RandomPort.skip_zero (port : RandomPort) : port.skip 0 = port := rfl

@[simp] theorem RandomPort.skip_skip (j k : Nat) (port : RandomPort) : (port.skip j).skip k = port.skip (j + k) := by
  simp [RandomPort.skip, Nat.add_assoc]

@[simp] theorem DrawRun.skip_zero (run : DrawRun) : run.skip 0 = run := rfl

@[simp] theorem DrawRun.skip_skip (j k : Nat) (run : DrawRun) : (run.skip j).skip k = run.skip (j + k) := by
  simp [DrawRun.skip, Nat.add_assoc]

/-- R47: an answered draw is in range, and takes one answer. -/
theorem draw_some {k v : Nat} {port port' : RandomPort} (h : port.draw k = some (v, port')) :
    v < 2 ^ k ∧ port' = port.skip 1 := by
  unfold RandomPort.draw at h
  split at h
  · obtain ⟨rfl, rfl⟩ := Prod.mk.inj (Option.some.inj h)
    exact ⟨Nat.mod_lt _ (Nat.two_pow_pos _), by simp [RandomPort.skip, *]⟩
  · split at h
    · cases h
    · obtain ⟨rfl, rfl⟩ := Prod.mk.inj (Option.some.inj h)
      exact ⟨Nat.mod_lt _ (Nat.two_pow_pos _), by simp [RandomPort.skip, *]⟩

/-- R252: only a silent source leaves a draw without an answer. -/
theorem draw_none {k : Nat} {port : RandomPort} (h : port.draw k = none) :
    port.silent = true ∧ port.answers = [] := by
  unfold RandomPort.draw at h
  split at h
  · cases h
  · split at h
    · exact ⟨‹_›, ‹_›⟩
    · cases h

/-- R132: the candidate has exactly `h` bits. -/
theorem forceTopBit_range {h v : Nat} (hh : 0 < h) (hv : v < 2 ^ h) :
    2 ^ (h - 1) ≤ forceTopBit h v ∧ forceTopBit h v < 2 ^ h := by
  have hp : 2 ^ h = 2 * 2 ^ (h - 1) := by rw [← pow_succ', Nat.sub_add_cancel hh]
  unfold forceTopBit
  split <;> omega

/-- What a draw of a candidate can do (R132). -/
theorem drawCandidate_spec (scap h : Nat) (run : DrawRun) :
    match drawCandidate scap h run with
    | .found x run' => (0 < h → 2 ^ (h - 1) ≤ x ∧ x < 2 ^ h) ∧ run.draws < scap ∧ run' = run.skip 1
    | .capReached run' => run' = run ∧ scap ≤ run.draws
    | .unanswered run' => run' = run ∧ run.draws < scap ∧ run.port.silent = true ∧ run.port.answers = [] := by
  unfold drawCandidate
  by_cases hc : scap ≤ run.draws
  · rw [if_pos hc]
    exact ⟨rfl, hc⟩
  · rw [if_neg hc]
    cases hd : run.port.draw h with
    | none => exact ⟨rfl, Nat.lt_of_not_le hc, draw_none hd⟩
    | some d =>
      obtain ⟨v, port⟩ := d
      obtain ⟨hv, rfl⟩ := draw_some hd
      exact ⟨fun hh => forceTopBit_range hh hv, Nat.lt_of_not_le hc, rfl⟩

/-- A Blum prime made from a draw of `h` bits (R134): prime, 3 modulo 4, the next prime of an `h`-bit number. -/
def IsBlumCandidate (h p : Nat) : Prop :=
  p.Prime ∧ p % 4 = 3 ∧ ∃ x, p = nextPrime x ∧ (0 < h → 2 ^ (h - 1) ≤ x ∧ x < 2 ^ h)

/-- The ends of a loop of SETUP that found nothing: the cap exactly reached, or a silent source below the cap. -/
def EndsWithoutPrime (scap : Nat) (run : DrawRun) {α : Type} : Attempt α → Prop
  | .found _ _ => True
  | .capReached run' => (∃ k, run' = run.skip k) ∧ run'.draws = scap
  | .unanswered run' =>
    (∃ k, run' = run.skip k) ∧ run'.draws < scap ∧ run'.port.silent = true ∧ run'.port.answers = []

theorem EndsWithoutPrime.later {scap k : Nat} {run : DrawRun} {α : Type} {m : Attempt α}
    (h : EndsWithoutPrime scap (run.skip k) m) : EndsWithoutPrime scap run m := by
  cases m with
  | found x run' => trivial
  | capReached run' =>
    obtain ⟨⟨j, hj⟩, hd⟩ := h
    exact ⟨⟨k + j, by rw [hj, DrawRun.skip_skip]⟩, hd⟩
  | unanswered run' =>
    obtain ⟨⟨j, hj⟩, hd⟩ := h
    exact ⟨⟨k + j, by rw [hj, DrawRun.skip_skip]⟩, hd⟩

/-- What `BlumPrime` can do (R134), with enough fuel for the draws left. -/
theorem blumPrime_spec (scap h : Nat) : ∀ fuel run, run.draws ≤ scap → scap < run.draws + fuel →
    EndsWithoutPrime scap run (blumPrime scap h fuel run) ∧
    ∀ p run', blumPrime scap h fuel run = .found p run' →
      IsBlumCandidate h p ∧ run'.draws ≤ scap ∧ ∃ k, run' = run.skip (k + 1) := by
  intro fuel
  induction fuel with
  | zero => intro run h1 h2; omega
  | succ fuel ih =>
    intro run hle hfuel
    have hd := drawCandidate_spec scap h run
    unfold blumPrime
    cases hc : drawCandidate scap h run with
    | capReached run' =>
      rw [hc] at hd
      obtain ⟨rfl, hcap⟩ := hd
      exact ⟨⟨⟨0, rfl⟩, le_antisymm hle hcap⟩, fun p run' he => nomatch he⟩
    | unanswered run' =>
      rw [hc] at hd
      obtain ⟨rfl, hlt, hs, ha⟩ := hd
      exact ⟨⟨⟨0, rfl⟩, hlt, hs, ha⟩, fun p run' he => nomatch he⟩
    | found x run' =>
      rw [hc] at hd
      obtain ⟨hx, hlt, rfl⟩ := hd
      simp only [Attempt.andThen]
      by_cases h3 : nextPrime x % 4 = 3
      · rw [if_pos h3]
        refine ⟨trivial, fun p run' he => ?_⟩
        cases he
        exact ⟨⟨(nextPrime_spec x).1, h3, x, rfl, hx⟩, hlt, 0, rfl⟩
      · rw [if_neg h3]
        obtain ⟨hend, hfound⟩ := ih (run.skip 1) hlt (by simp only [DrawRun.skip_draws]; omega)
        refine ⟨hend.later, fun p run' he => ?_⟩
        obtain ⟨hp, hcap, k, hk⟩ := hfound p run' he
        exact ⟨hp, hcap, 1 + k, by rw [hk, DrawRun.skip_skip]; rfl⟩

/-- What the making of a distinct second prime can do (R135). -/
theorem distinctPrime_spec (scap h p : Nat) : ∀ fuel run, run.draws ≤ scap → scap < run.draws + fuel →
    EndsWithoutPrime scap run (distinctPrime scap h p fuel run) ∧
    ∀ q run', distinctPrime scap h p fuel run = .found q run' →
      IsBlumCandidate h q ∧ q ≠ p ∧ run'.draws ≤ scap ∧ ∃ k, run' = run.skip (k + 1) := by
  intro fuel
  induction fuel with
  | zero => intro run h1 h2; omega
  | succ fuel ih =>
    intro run hle hfuel
    obtain ⟨hend, hfound⟩ := blumPrime_spec scap h (scap + 1) run hle (by omega)
    unfold distinctPrime
    cases hc : blumPrime scap h (scap + 1) run with
    | capReached run' => rw [hc] at hend; exact ⟨hend, fun q run' he => nomatch he⟩
    | unanswered run' => rw [hc] at hend; exact ⟨hend, fun q run' he => nomatch he⟩
    | found q run' =>
      obtain ⟨hq, hcap, k, rfl⟩ := hfound q run' hc
      simp only [Attempt.andThen]
      by_cases hqp : q = p
      · rw [if_pos hqp]
        obtain ⟨hend', hfound'⟩ := ih (run.skip (k + 1)) hcap (by simp only [DrawRun.skip_draws]; omega)
        refine ⟨hend'.later, fun q' run' he => ?_⟩
        obtain ⟨h1, h2, h3, j, hj⟩ := hfound' q' run' he
        exact ⟨h1, h2, h3, k + 1 + j, by rw [hj, DrawRun.skip_skip]; rfl⟩
      · rw [if_neg hqp]
        refine ⟨trivial, fun q' run' he => ?_⟩
        cases he
        exact ⟨hq, hqp, hcap, k, rfl⟩

/-- What the making of a pair can do (R133, R136). -/
theorem primePair_spec (scap L : Nat) : ∀ fuel run, run.draws ≤ scap → scap < run.draws + fuel →
    EndsWithoutPrime scap run (primePair scap L fuel run) ∧
    ∀ pq run', primePair scap L fuel run = .found pq run' →
      IsBlumCandidate (L / 2) pq.1 ∧ IsBlumCandidate (L / 2) pq.2 ∧ pq.2 ≠ pq.1 ∧ bitlen (pq.1 * pq.2) = L ∧
        run'.draws ≤ scap ∧ ∃ k, run' = run.skip (k + 2) := by
  intro fuel
  induction fuel with
  | zero => intro run h1 h2; omega
  | succ fuel ih =>
    intro run hle hfuel
    obtain ⟨hend, hfound⟩ := blumPrime_spec scap (L / 2) (scap + 1) run hle (by omega)
    unfold primePair
    cases hc : blumPrime scap (L / 2) (scap + 1) run with
    | capReached run' => rw [hc] at hend; exact ⟨hend, fun pq run' he => nomatch he⟩
    | unanswered run' => rw [hc] at hend; exact ⟨hend, fun pq run' he => nomatch he⟩
    | found p run' =>
      obtain ⟨hp, hcap, k, rfl⟩ := hfound p run' hc
      obtain ⟨hend', hfound'⟩ := distinctPrime_spec scap (L / 2) p (scap + 1) (run.skip (k + 1)) hcap (by omega)
      simp only [Attempt.andThen]
      cases he : distinctPrime scap (L / 2) p (scap + 1) (run.skip (k + 1)) with
      | capReached run' => rw [he] at hend'; exact ⟨hend'.later, fun pq run' hn => nomatch hn⟩
      | unanswered run' => rw [he] at hend'; exact ⟨hend'.later, fun pq run' hn => nomatch hn⟩
      | found q run' =>
        obtain ⟨hq, hqp, hcap', j, rfl⟩ := hfound' q run' he
        by_cases hL : bitlen (p * q) = L
        · simp only [hL, if_true]
          refine ⟨trivial, fun pq run' hn => ?_⟩
          cases hn
          exact ⟨hp, hq, hqp, hL, hcap', k + j, by rw [DrawRun.skip_skip]; congr 1; omega⟩
        · simp only [hL, if_false]
          obtain ⟨hend'', hfound''⟩ := ih ((run.skip (k + 1)).skip (j + 1)) hcap'
            (by simp only [DrawRun.skip_draws]; omega)
          refine ⟨hend''.later.later, fun pq run' hn => ?_⟩
          obtain ⟨h1, h2, h3, h4, h5, i, hi⟩ := hfound'' pq run' hn
          exact ⟨h1, h2, h3, h4, h5, k + j + 2 + i, by rw [hi, DrawRun.skip_skip, DrawRun.skip_skip]; congr 1; omega⟩

/-- What the whole search of a SETUP of length `L` can do (R133 to R136). The port it leaves is the port it found, as
many answers later as it counts draws. -/
theorem searchKey_spec (L : Nat) (s : State) :
    match searchKey L s with
    | .found (p, q) run => IsBlumCandidate (L / 2) p ∧ IsBlumCandidate (L / 2) q ∧ q ≠ p ∧ bitlen (p * q) = L ∧
        2 ≤ run.draws ∧ run.draws ≤ s.scap.toNat ∧ run.port = s.port.skip run.draws
    | .capReached run => run.draws = s.scap.toNat ∧ run.port = s.port.skip run.draws
    | .unanswered run => run.draws < s.scap.toNat ∧ run.port = s.port.skip run.draws ∧ s.port.silent = true ∧
        run.port.answers = [] := by
  obtain ⟨hend, hfound⟩ :=
    primePair_spec s.scap.toNat L (s.scap.toNat + 1) { draws := 0, port := s.port } (Nat.zero_le _) (by simp)
  change EndsWithoutPrime _ _ (searchKey L s) at hend
  cases hs : searchKey L s with
  | found pq run =>
    obtain ⟨h1, h2, h3, h4, h5, k, rfl⟩ := hfound pq run hs
    exact ⟨h1, h2, h3, h4, by simp, h5, by simp⟩
  | capReached run =>
    rw [hs] at hend
    obtain ⟨⟨k, rfl⟩, hd⟩ := hend
    exact ⟨hd, by simp⟩
  | unanswered run =>
    rw [hs] at hend
    obtain ⟨⟨k, rfl⟩, hd, hsil, hans⟩ := hend
    exact ⟨hd, by simp, hsil, hans⟩

/-- The run of draws an attempt ends with. -/
def Attempt.run {α : Type} : Attempt α → DrawRun
  | .found _ run => run
  | .capReached run => run
  | .unanswered run => run

/-- From `run` to `run'` a silent source answered only from its list: draws counted and answers left keep their sum. -/
def DrawRun.SameBudget (run run' : DrawRun) : Prop :=
  run'.draws + run'.port.answers.length = run.draws + run.port.answers.length ∧ run'.port.silent = true

theorem drawCandidate_budget (scap h : Nat) {run : DrawRun} (hs : run.port.silent = true) :
    run.SameBudget (drawCandidate scap h run).run := by
  unfold drawCandidate RandomPort.draw
  split
  · exact ⟨rfl, hs⟩
  · cases ha : run.port.answers with
    | nil => exact ⟨rfl, hs⟩
    | cons v rest => exact ⟨by simp only [Attempt.run, ha, List.length_cons]; omega, hs⟩

theorem andThen_budget {α β : Type} {m : Attempt α} {f : α → DrawRun → Attempt β} {run : DrawRun}
    (hm : run.SameBudget m.run) (hf : ∀ x (r : DrawRun), r.port.silent = true → r.SameBudget (f x r).run) :
    run.SameBudget (m.andThen f).run := by
  cases m with
  | found x r => exact ⟨(hf x r hm.2).1.trans hm.1, (hf x r hm.2).2⟩
  | capReached r => exact hm
  | unanswered r => exact hm

theorem blumPrime_budget (scap h : Nat) : ∀ fuel {run : DrawRun}, run.port.silent = true →
    run.SameBudget (blumPrime scap h fuel run).run := by
  intro fuel
  induction fuel with
  | zero => intro run hs; exact ⟨rfl, hs⟩
  | succ fuel ih =>
    intro run hs
    refine andThen_budget (drawCandidate_budget scap h hs) (fun x r hr => ?_)
    split <;> [exact ⟨rfl, hr⟩; exact ih hr]

theorem distinctPrime_budget (scap h p : Nat) : ∀ fuel {run : DrawRun}, run.port.silent = true →
    run.SameBudget (distinctPrime scap h p fuel run).run := by
  intro fuel
  induction fuel with
  | zero => intro run hs; exact ⟨rfl, hs⟩
  | succ fuel ih =>
    intro run hs
    refine andThen_budget (blumPrime_budget scap h (scap + 1) hs) (fun x r hr => ?_)
    split <;> [exact ih hr; exact ⟨rfl, hr⟩]

theorem primePair_budget (scap L : Nat) : ∀ fuel {run : DrawRun}, run.port.silent = true →
    run.SameBudget (primePair scap L fuel run).run := by
  intro fuel
  induction fuel with
  | zero => intro run hs; exact ⟨rfl, hs⟩
  | succ fuel ih =>
    intro run hs
    refine andThen_budget (blumPrime_budget scap (L / 2) (scap + 1) hs) (fun p r hr => ?_)
    refine andThen_budget (distinctPrime_budget scap (L / 2) p (scap + 1) hr) (fun q r hr => ?_)
    split <;> [exact ⟨rfl, hr⟩; exact ih hr]

/-- R252: a silent source gives a SETUP only the answers of its list. -/
theorem searchKey_budget (L : Nat) {s : State} (hs : s.port.silent = true) :
    DrawRun.SameBudget { draws := 0, port := s.port } (searchKey L s).run :=
  primePair_budget _ _ _ hs

theorem execSetup_refused {imm16 : Nat} (h : badLength (requestedLength imm16) = true) (s : State) :
    execSetup imm16 s = .next (raiseFault .badLength s) := if_pos h

theorem execSetup_search {imm16 : Nat} (h : badLength (requestedLength imm16) = false) (s : State) :
    execSetup imm16 s = .next (endSetup (searchKey (requestedLength imm16) s) s) := if_neg (by simp [h])

/-- What SETUP can do (R133): one of its two faults, a new key, or waiting for a draw that is not answered. -/
theorem execSetup_cases {imm16 : Nat} {s t : State} (h : execSetup imm16 s = .next t) :
    (badLength (requestedLength imm16) = true ∧ t = raiseFault .badLength s) ∨
    (badLength (requestedLength imm16) = false ∧ ∃ run, run.draws = s.scap.toNat ∧
      t = raiseFault .setupFailure (afterDraws run (clearInstance s))) ∨
    (badLength (requestedLength imm16) = false ∧ ∃ p q run, IsBlumCandidate (requestedLength imm16 / 2) p ∧
      IsBlumCandidate (requestedLength imm16 / 2) q ∧ q ≠ p ∧ bitlen (p * q) = requestedLength imm16 ∧
      2 ≤ run.draws ∧ run.draws ≤ s.scap.toNat ∧
      t = complete (commitKey p q (afterDraws run (clearInstance s)))) ∨
    (badLength (requestedLength imm16) = false ∧ s.port.silent = true ∧
      ∃ port, port.silent = true ∧ port.answers = [] ∧ t = { s with port := port }) := by
  unfold execSetup at h
  cases hb : badLength (requestedLength imm16) with
  | true =>
    simp only [hb, if_true, Host.Outcome.next.injEq] at h
    exact .inl ⟨rfl, h.symm⟩
  | false =>
    have hk := searchKey_spec (requestedLength imm16) s
    simp only [hb, Bool.false_eq_true, if_false, Host.Outcome.next.injEq, endSetup] at h
    cases hs : searchKey (requestedLength imm16) s with
    | found pq run =>
      obtain ⟨p, q⟩ := pq
      rw [hs] at hk
      simp only [hs] at h
      obtain ⟨h1, h2, h3, h4, h5, h6, -⟩ := hk
      exact .inr (.inr (.inl ⟨rfl, p, q, run, h1, h2, h3, h4, h5, h6, h.symm⟩))
    | capReached run =>
      rw [hs] at hk
      simp only [hs] at h
      exact .inr (.inl ⟨rfl, run, hk.1, h.symm⟩)
    | unanswered run =>
      rw [hs] at hk
      simp only [hs] at h
      exact .inr (.inr (.inr ⟨rfl, hk.2.2.1, run.port, by rw [hk.2.1]; exact hk.2.2.1, hk.2.2.2, h.symm⟩))

end Sys2Proof.Machine
end

