-- ==== Sys2Proof/Laws/Commands.lean ====
section
/-! SUPPORT. Everything each command can do, one inversion lemma each (SETUP's is `execSetup_cases`), and what
every command leaves alone. -/

namespace Sys2Proof.Machine

theorem execNop_cases {s t : State} (h : execNop s = .next t) : t = complete s := by
  cases h; rfl

theorem execZeroize_cases {s t : State} (h : execZeroize s = .next t) : t = complete (wipe s) := by
  cases h; rfl

/-- What JACOBI can do (R112). -/
theorem execJacobi_cases {s t : State} (h : execJacobi s = .next t) :
    (badModulus s.n.toNat = true ∧ t = raiseFault .badModulus (setJ .zero s)) ∨
    (badModulus s.n.toNat = false ∧ t = complete (setJ (jacobi s.a.toNat s.n.toNat) s)) := by
  unfold execJacobi at h
  split at h
  · cases h; exact .inl ⟨‹_›, rfl⟩
  · cases h; exact .inr ⟨Bool.eq_false_of_not_eq_true ‹_›, rfl⟩

/-- What MODEXP can do (R122). -/
theorem execModexp_cases {s t : State} (h : execModexp s = .next t) :
    (badModulus s.n.toNat = true ∧ t = raiseFault .badModulus (setR 0 s)) ∨
    (badModulus s.n.toNat = false ∧ t = complete (setR (modexp s.a.toNat s.e.toNat s.n.toNat) s)) := by
  unfold execModexp at h
  split at h
  · cases h; exact .inl ⟨‹_›, rfl⟩
  · cases h; exact .inr ⟨Bool.eq_false_of_not_eq_true ‹_›, rfl⟩

/-- What SQRT can do (R153). -/
theorem execSqrt_cases {s t : State} (h : execSqrt s = .next t) :
    (s.sk = false ∧ t = raiseFault .noKey (dropRoot s)) ∨
    (s.sk = true ∧ s.rootCheck = .fail ∧ t = raiseFault .verificationFailed (dropRoot s)) ∨
    (s.sk = true ∧ s.rootCheck ≠ .fail ∧ t = complete (storeRoot s)) := by
  unfold execSqrt at h
  split at h
  · cases h; exact .inl ⟨‹_›, rfl⟩
  · have hsk := Bool.eq_true_of_not_eq_false ‹_›
    split at h
    · cases h; exact .inr (.inl ⟨hsk, ‹_›, rfl⟩)
    · cases h; exact .inr (.inr ⟨hsk, ‹_›, rfl⟩)

/-- What XINIT can do (R156). -/
theorem execXinit_cases {s t : State} (h : execXinit s = .next t) :
    (s.idlen = 0 ∧ t = raiseFault .invalidIdentity (clearSession s)) ∨
    (s.idlen ≠ 0 ∧ s.sk = false ∧ t = raiseFault .noKey (clearSession s)) ∨
    (s.idlen ≠ 0 ∧ s.sk = true ∧ t = complete (setSession true (clearSession s))) := by
  unfold execXinit at h
  split at h
  · cases h; exact .inl ⟨‹_›, rfl⟩
  · split at h
    · cases h; exact .inr (.inl ⟨‹_›, ‹_›, rfl⟩)
    · cases h; exact .inr (.inr ⟨‹_›, Bool.eq_true_of_not_eq_false ‹_›, rfl⟩)

/-- What XTRY can do (R158). -/
theorem execXtry_cases {s t : State} (h : execXtry s = .next t) :
    (s.xact = false ∧ t = raiseFault .sequence (clearResults s)) ∨
    (s.xact = true ∧ s.xcap ≤ s.iter ∧ t = raiseFault .capExhausted (setSession false (clearResults s))) ∨
    (s.xact = true ∧ s.iter < s.xcap ∧ jacobi s.a.toNat s.n.toNat ≠ .plusOne ∧
      t = complete (setAcc false (dropRoot (testCandidate s)))) ∨
    (s.xact = true ∧ s.iter < s.xcap ∧ jacobi s.a.toNat s.n.toNat = .plusOne ∧ s.rootCheck = .fail ∧
      t = raiseFault .verificationFailed (setSession false (clearResults (testCandidate s)))) ∨
    (s.xact = true ∧ s.iter < s.xcap ∧ jacobi s.a.toNat s.n.toNat = .plusOne ∧ s.rootCheck ≠ .fail ∧
      t = complete (setAcc true (storeRoot (setSession false (testCandidate s))))) := by
  cases hx : s.xact with
  | false =>
    simp only [execXtry, hx, if_true, Host.Outcome.next.injEq] at h
    exact .inl ⟨rfl, h.symm⟩
  | true =>
    refine .inr ?_
    by_cases hcap : s.xcap ≤ s.iter
    · simp only [execXtry, hx, Bool.true_eq_false, if_false, hcap, if_true, Host.Outcome.next.injEq] at h
      exact .inl ⟨rfl, hcap, h.symm⟩
    · have hlt := BitVec.not_le.mp hcap
      refine .inr ?_
      by_cases hj : jacobi s.a.toNat s.n.toNat = .plusOne
      · by_cases hv : s.rootCheck = .fail
        · simp [execXtry, hx, hcap, hj, hv] at h
          exact .inr (.inl ⟨rfl, hlt, hj, hv, h.symm⟩)
        · simp [execXtry, hx, hcap, hj, hv] at h
          exact .inr (.inr ⟨rfl, hlt, hj, hv, h.symm⟩)
      · simp [execXtry, hx, hcap, hj] at h
        exact .inl ⟨rfl, hlt, hj, h.symm⟩

/-- What no command changes: the host's controls, the caps, ACCERR, CMDR, the events to come and the bus. -/
theorem exec_keeps {i : Instr} {s t : State} (h : exec i s = .next t) :
    t.xcap = s.xcap ∧ t.scap = s.scap ∧ t.ie = s.ie ∧ t.accErr = s.accErr ∧ t.cmdr = s.cmdr ∧
      t.inputs = s.inputs ∧ t.rdata = s.rdata := by
  cases i with
  | nop => rcases execNop_cases h with rfl; simp
  | jacobi => rcases execJacobi_cases h with ⟨-, rfl⟩ | ⟨-, rfl⟩ <;> simp
  | modexp => rcases execModexp_cases h with ⟨-, rfl⟩ | ⟨-, rfl⟩ <;> simp
  | sqrt => rcases execSqrt_cases h with ⟨-, rfl⟩ | ⟨-, -, rfl⟩ | ⟨-, -, rfl⟩ <;> simp
  | setup imm16 =>
    rcases execSetup_cases h with ⟨-, rfl⟩ | ⟨-, run, -, rfl⟩ | ⟨-, p, q, run, -, -, -, -, -, -, rfl⟩ |
      ⟨-, -, port, -, -, rfl⟩ <;> simp
  | xinit => rcases execXinit_cases h with ⟨-, rfl⟩ | ⟨-, -, rfl⟩ | ⟨-, -, rfl⟩ <;> simp
  | xtry =>
    rcases execXtry_cases h with ⟨-, rfl⟩ | ⟨-, -, rfl⟩ | ⟨-, -, -, rfl⟩ | ⟨-, -, -, -, rfl⟩ |
      ⟨-, -, -, -, rfl⟩ <;> simp
  | zeroize => rcases execZeroize_cases h with rfl; simp

end Sys2Proof.Machine
end

