-- ==== Sys2Proof/Laws/Step.lean ====
section
/-! SUPPORT. Everything a step can do, and a run cut at its first step. -/

namespace Sys2Proof.Machine

/-- `s` with its next event taken off (the same state when there is none). -/
def State.pop (s : State) : State := { s with inputs := s.inputs.tail }

/-- Everything the engine's turn can do (R96). -/
theorem engineTurn_cases {s t : State} (h : engineTurn s = .next t) :
    (s.busy = false ∧ t = s) ∨
    (s.busy = true ∧ ∃ why, decode s.cmdr = .error why ∧ t = raiseFault .illegalCommand s) ∨
    (s.busy = true ∧ ∃ i, decode s.cmdr = .ok i ∧ exec i s = .next t) := by
  unfold engineTurn at h
  split at h
  · cases hd : decode s.cmdr with
    | ok i =>
      rw [hd] at h
      exact .inr (.inr ⟨‹_›, i, rfl, h⟩)
    | error why =>
      rw [hd] at h
      cases h
      exact .inr (.inl ⟨‹_›, why, rfl, rfl⟩)
  · cases h
    exact .inl ⟨Bool.eq_false_of_not_eq_true ‹_›, rfl⟩

/-- Everything a step can do: one event of the total order of R73. -/
theorem step_cases {s t : State} (h : step s = .next t) :
    ((s.inputs = [] ∨ ∃ rest, s.inputs = .engine :: rest) ∧ engineTurn s.pop = .next t) ∨
    ((∃ rest, s.inputs = .idle :: rest) ∧ t = s.pop) ∨
    ((∃ consumed rest, s.inputs = .rst consumed :: rest) ∧ ∃ port, t = applyReset { s.pop with port := port }) ∨
    (∃ off size rest, s.inputs = .read off size :: rest ∧
      t = { (busRead off size s.pop).2 with rdata := (busRead off size s.pop).1 }) ∨
    (∃ off size v rest, s.inputs = .write off size v :: rest ∧ t = busWrite off size v s.pop) := by
  obtain ⟨inputs, hin⟩ : ∃ l, s.inputs = l := ⟨_, rfl⟩
  have hpop : ∀ i rest, s.inputs = i :: rest → { s with inputs := rest } = s.pop := by
    intro i rest he
    simp [State.pop, he]
  unfold step advance at h
  cases inputs with
  | nil =>
    have : s.pop = s := by
      cases s
      simp_all [State.pop]
    rw [hin] at h
    exact .inl ⟨.inl hin, this.symm ▸ h⟩
  | cons i rest =>
    rw [hin] at h
    simp only [hpop i rest hin] at h
    cases i with
    | read off size => cases h; exact .inr (.inr (.inr (.inl ⟨off, size, rest, hin, rfl⟩)))
    | write off size v => cases h; exact .inr (.inr (.inr (.inr ⟨off, size, v, rest, hin, rfl⟩)))
    | rst consumed => cases h; exact .inr (.inr (.inl ⟨⟨consumed, rest, hin⟩, _, rfl⟩))
    | engine => exact .inl ⟨.inr ⟨rest, hin⟩, h⟩
    | idle => cases h; exact .inr (.inl ⟨⟨rest, hin⟩, rfl⟩)

/-- A run whose first step answers a next state goes on from there. -/
theorem core_run_succ {k : Nat} {s t : State} (h : step s = .next t) :
    Sys2Proof.core.run (k + 1) s = Sys2Proof.core.run k t := by
  have h' : Sys2Proof.core.step s = .next t := h
  exact (Host.Core.run.eq_2 Sys2Proof.core s k).trans (by rw [h'])

end Sys2Proof.Machine
end

