-- ==== Sys2Proof/Laws/HostScript.lean ====
section
/-! SUPPORT. What the pieces of the host's statements do, for the sequences built of them: a poll of STATUS, the engine's
turn beside the bus value, and the wait for a source that never answers. -/

namespace Sys2Proof.Machine

@[simp] theorem HostOutcome.andThen_done {α β : Type} (x : α) (h : HostState) (f : α → HostState → HostOutcome β) :
    (HostOutcome.done x h).andThen f = f x h := rfl

@[simp] theorem HostOutcome.andThen_polling {α β : Type} (h : HostState) (f : α → HostState → HostOutcome β) :
    (HostOutcome.polling h).andThen f = .polling h := rfl

theorem deliver_next {i : Input} {s t : State} (h : serve s i = .next t) : deliver i s = t := by
  unfold deliver
  rw [h]

/-- `rd STATUS` at any time: the word, and nothing changed but the bus value (20_memory.md R70, R72). -/
theorem hostRead_status (s : State) : hostRead .status s = (s.statusWord, { s with rdata := s.statusWord }) := by
  simp [hostRead, deliver, serve, busRead, busOffset, Reg.offset, wordAccess, regAt, controlReg, readableWhileBusy,
    readReg]

/-- The bit a poll tests (10_state.md R33). -/
theorem statusWord_busy (s : State) : s.statusWord.getLsbD 0 = s.busy := by
  unfold State.statusWord
  cases s.busy <;> cases s.done <;> cases s.flt <;> cases s.sk <;> cases s.acc <;> cases s.neg <;> cases s.xact <;>
    cases s.accErr <;> rfl

/-- No command reads the bus value. -/
theorem exec_rdata (i : Instr) (s : State) (w : Word) {t : State} (h : exec i s = .next t) :
    exec i { s with rdata := w } = .next { t with rdata := w } := by
  cases i with
  | nop => cases h; rfl
  | zeroize => cases h; rfl
  | jacobi =>
    rcases execJacobi_cases h with ⟨hb, rfl⟩ | ⟨hb, rfl⟩
    · exact if_pos hb
    · exact if_neg (by simp [hb])
  | modexp =>
    rcases execModexp_cases h with ⟨hb, rfl⟩ | ⟨hb, rfl⟩
    · exact if_pos hb
    · exact if_neg (by simp [hb])
  | sqrt =>
    rcases execSqrt_cases h with ⟨hk, rfl⟩ | ⟨hk, hc, rfl⟩ | ⟨hk, hc, rfl⟩
    · exact if_pos hk
    · exact (if_neg (by simp [hk])).trans (if_pos hc)
    · exact (if_neg (by simp [hk])).trans (if_neg hc)
  | xinit =>
    rcases execXinit_cases h with ⟨hi, rfl⟩ | ⟨hi, hk, rfl⟩ | ⟨hi, hk, rfl⟩
    · exact if_pos hi
    · exact (if_neg hi).trans (if_pos hk)
    · exact (if_neg hi).trans (if_neg (by simp [hk]))
  | xtry =>
    simp only [exec, execXtry] at h ⊢
    split at h
    · cases h; exact if_pos ‹_›
    · rw [if_neg ‹_›]
      split at h
      · cases h; exact if_pos ‹_›
      · rw [if_neg ‹_›]
        split at h
        · cases h; exact if_pos ‹_›
        · refine (if_neg ‹_›).trans ?_
          split at h
          · cases h; exact if_pos ‹_›
          · cases h; exact if_neg ‹_›
  | setup imm16 =>
    cases hl : badLength (requestedLength imm16) with
    | true =>
      cases (execSetup_refused hl s).symm.trans h
      exact execSetup_refused hl _
    | false =>
      cases (execSetup_search hl s).symm.trans h
      refine (execSetup_search hl _).trans ?_
      rw [show searchKey (requestedLength imm16) { s with rdata := w } = searchKey (requestedLength imm16) s from rfl]
      cases searchKey (requestedLength imm16) s <;> rfl

/-- Nor does the engine's turn (R96). -/
theorem engineTurn_rdata (s : State) (w : Word) {t : State} (h : engineTurn s = .next t) :
    engineTurn { s with rdata := w } = .next { t with rdata := w } := by
  unfold engineTurn at h ⊢
  split at h
  · rename_i hb
    rw [if_pos hb]
    cases hd : decode s.cmdr with
    | ok i => rw [hd] at h; exact exec_rdata i s w h
    | error why => rw [hd] at h; cases h; rfl
  · rename_i hb
    cases h
    exact if_neg hb

/-- A turn that leaves the command in flight waits for a draw that is not answered: so does the next (R252). -/
theorem engineTurn_again {s t : State} (h : engineTurn s = .next t) (hb : t.busy = true) : engineTurn t = .next t := by
  rcases engineTurn_cases h with ⟨h0, rfl⟩ | ⟨-, why, -, rfl⟩ | ⟨hs, i, hd, hx⟩
  · rw [h0] at hb; cases hb
  · cases hb
  · cases i with
    | nop => rcases execNop_cases hx with rfl; cases hb
    | jacobi => rcases execJacobi_cases hx with ⟨-, rfl⟩ | ⟨-, rfl⟩ <;> cases hb
    | modexp => rcases execModexp_cases hx with ⟨-, rfl⟩ | ⟨-, rfl⟩ <;> cases hb
    | sqrt => rcases execSqrt_cases hx with ⟨-, rfl⟩ | ⟨-, -, rfl⟩ | ⟨-, -, rfl⟩ <;> cases hb
    | xinit => rcases execXinit_cases hx with ⟨-, rfl⟩ | ⟨-, -, rfl⟩ | ⟨-, -, rfl⟩ <;> cases hb
    | xtry =>
      rcases execXtry_cases hx with ⟨-, rfl⟩ | ⟨-, -, rfl⟩ | ⟨-, -, -, rfl⟩ | ⟨-, -, -, -, rfl⟩ |
        ⟨-, -, -, -, rfl⟩ <;> cases hb
    | zeroize => rcases execZeroize_cases hx with rfl; cases hb
    | setup imm16 =>
      cases hl : badLength (requestedLength imm16) with
      | true => cases (execSetup_refused hl s).symm.trans hx; cases hb
      | false =>
        have hk := searchKey_spec (requestedLength imm16) s
        cases (execSetup_search hl s).symm.trans hx
        cases hr : searchKey (requestedLength imm16) s with
        | found pq run => rw [hr] at hb; cases hb
        | capReached run => rw [hr] at hb; cases hb
        | unanswered run =>
          rw [hr] at hk
          obtain ⟨hlt, hport, hsil, hans⟩ := hk
          have hsil' : run.port.silent = true := by rw [hport]; exact hsil
          have hagain : searchKey (requestedLength imm16) { s with port := run.port } =
              .unanswered { draws := 0, port := run.port } := by
            simp [searchKey, primePair, blumPrime, drawCandidate, RandomPort.draw, Attempt.andThen, hsil', hans,
              show s.scap.toNat ≠ 0 by omega]
          have hturn : engineTurn { s with port := run.port } = execSetup imm16 { s with port := run.port } := by
            unfold engineTurn
            simp only [hs, hd, if_true]
            rfl
          refine hturn.trans ((execSetup_search hl _).trans ?_)
          rw [hagain]
          rfl

end Sys2Proof.Machine
end

