-- ==== Sys2Proof/Laws/PerInstr.lean ====
section
/-! SUPPORT. Statements about every command as syntax, one lemma per constructor. -/

namespace Sys2Proof.Laws.EncodingFields

/-- The word written for a well-formed command has the command's `op`, a zero `rsv`, and its immediate in 31:16
(30_encoding.md R91). -/
def Statement (i : Instr) : Prop :=
  i.wellFormed = true → opField (encode i) = i.opcode ∧ rsvField (encode i) = 0 ∧ immField (encode i) = i.immediate

theorem nop : Statement .nop := fun _ => by decide
theorem jacobi : Statement .jacobi := fun _ => by decide
theorem modexp : Statement .modexp := fun _ => by decide
theorem sqrt : Statement .sqrt := fun _ => by decide
theorem xinit : Statement .xinit := fun _ => by decide
theorem xtry : Statement .xtry := fun _ => by decide
theorem zeroize : Statement .zeroize := fun _ => by decide

theorem setup (imm16 : Nat) : Statement (.setup imm16) := by
  intro h
  have hi : imm16 < 65536 := of_decide_eq_true h
  refine ⟨BitVec.eq_of_toNat_eq ?_, BitVec.eq_of_toNat_eq ?_, ?_⟩ <;>
    simp [opField, rsvField, immField, encode, Instr.immediate, Instr.opcode, Nat.shiftRight_eq_div_pow] <;>
    omega

end Sys2Proof.Laws.EncodingFields
end

