-- ==== Sys2Proof/Tests/Slice0.lean ====
section
/-! SUPPORT. Small tests, with results taken from 95_test_vectors.md and the worked examples of the rules, and for
every statement with hypotheses a `witness_…` theorem: concrete states and operands that meet them. -/

namespace Sys2Proof.Tests

-- One theorem at a time: many kernel evaluations side by side take a thread, and so a stack, each.
set_option Elab.async false

open Sys2Proof.Machine

/-! ### States -/

/-- A public-only block holding `n`, `a` and `e`. -/
def loaded (n a e : Nat) : State := { State.reset with n := big n, a := big a, e := big e }

/-- "Key 589" of 95_test_vectors.md, with `a` in A. -/
def key589 (a : Nat) : State := { loaded 589 a 0 with p := big 19, q := big 31, sk := true }

/-- Key 589 with an open session. -/
def session589 (a : Nat) : State := { key589 a with xact := true }

/-- A state that claims a key and holds none: the verification of a root can fail on a symbol of +1. -/
def brokenKey : State := { session589 3 with p := big 3, q := big 7 }

/-- A block with the explicit answers `answers` at its random-source port. -/
def answering (answers : List Nat) (s : State) : State :=
  { s with port := { answers := answers.map (BitVec.ofNat Config.portBits), taken := 0, silent := false } }

/-- A block whose random source never answers. -/
def silenced (s : State) : State := { s with port := { answers := [], taken := 0, silent := true } }

/-- The state after a command; the state itself if it stopped (which no command does). -/
def after (i : Instr) (s : State) : State :=
  match exec i s with
  | .next t => t
  | .fault _ => s
  | .refused _ => s

/-- The state after one step. -/
def stepped (s : State) : State :=
  match step s with
  | .next t => t
  | .fault _ => s
  | .refused _ => s

/-- A command word in flight with the engine's turn next. -/
def inFlight (w : Word) (s : State) : State := { s with cmdr := w, busy := true, inputs := [] }

theorem loaded_n {n : Nat} (a e : Nat) (h : n < 2 ^ Config.W) : (loaded n a e).n.toNat = n := big_toNat h

theorem loaded_a {a : Nat} (n e : Nat) (h : a < 2 ^ Config.W) : (loaded n a e).a.toNat = a := big_toNat h

/-! ### Well-formedness and encoding -/

theorem test_wellFormed_setup_bounds :
    (Instr.setup 65536).wellFormed = false ∧ (Instr.setup 65535).wellFormed = true ∧
      (Instr.setup 0).wellFormed = true := by decide

/-- 30_encoding.md R91, R92: `imm16`, `rsv`, `op` written out bit by bit. -/
theorem test_decode_nop : decode (0b0000000000000000#16 ++ 0b00000000#8 ++ 0b00000000#8) = .ok .nop := by decide
theorem test_decode_jacobi : decode (0b0000000000000000#16 ++ 0b00000000#8 ++ 0b00000001#8) = .ok .jacobi := by decide
theorem test_decode_modexp : decode (0b0000000000000000#16 ++ 0b00000000#8 ++ 0b00000010#8) = .ok .modexp := by decide
theorem test_decode_sqrt : decode (0b0000000000000000#16 ++ 0b00000000#8 ++ 0b00000011#8) = .ok .sqrt := by decide
theorem test_decode_setup :
    decode (0b0000000000001010#16 ++ 0b00000000#8 ++ 0b00000100#8) = .ok (.setup 10) := by decide
theorem test_decode_xinit : decode (0b0000000000000000#16 ++ 0b00000000#8 ++ 0b00000101#8) = .ok .xinit := by decide
theorem test_decode_xtry : decode (0b0000000000000000#16 ++ 0b00000000#8 ++ 0b00000110#8) = .ok .xtry := by decide
theorem test_decode_zeroize :
    decode (0b0000000000000000#16 ++ 0b00000000#8 ++ 0b00000111#8) = .ok .zeroize := by decide

/-- TD9 to TD15. -/
theorem test_decode_illegal :
    [0x00000008, 0x000000FF, 0x00000100, 0x00010001, 0x00010000, 0x80000007, 0x00000104].map decode =
      [.error .unknownOpcode, .error .unknownOpcode, .error .reservedBits, .error .immediateNotZero,
        .error .immediateNotZero, .error .immediateNotZero, .error .reservedBits] := by decide

/-- R99: the words of `SETUP 512`, `SETUP 10`, `XTRY`; 20_memory.md R65: the lowest byte lane comes first. -/
theorem test_encode :
    encode (.setup 512) = 0x02000004 ∧ encode (.setup 10) = 0x000A0004 ∧ encode .xtry = 0x00000006 ∧
      decodeLanes [0x04, 0x00, 0x0A, 0x00] = .ok (.setup 10) ∧ decodeLanes [0x04, 0x00, 0x0A] = .error .notOneWord := by
  decide

/-- A row with fewer than 32 bits in the table: the bits above are 0. -/
theorem test_decodeTableWord :
    decodeTableWord 32 0x000A0004 = some (.setup 10) ∧ decodeTableWord 16 0x0004 = some (.setup 0) ∧
      decodeTableWord 32 0x00000107 = none := by decide

/-! ### Commands -/

/-- TZ1. -/
theorem test_nop :
    let t := after .nop (accept 0 { State.reset with flt := true, code := 0x02 })
    t.statusWord = 0x00000002 ∧ t.faultWord = 0 := by decide +kernel

/-- TZ2, TZ3. -/
theorem test_zeroize :
    let t := after .zeroize (accept 7 { key589 5 with draws := 6, scap := 4, ie := true })
    t.statusWord = 0x00000002 ∧ t.n = 0 ∧ t.p = 0 ∧ t.draws = 0 ∧ t.scap = 4 ∧ t.ie = true ∧ t.cmdr = 7 := by
  decide +kernel

/-- TJ12, TJ3, TJ16, TJ5. -/
theorem test_jacobi_symbols :
    (after .jacobi (loaded 9907 1001 0)).j = .minusOne ∧ (after .jacobi (loaded 589 2 0)).j.word = 0xFFFFFFFF ∧
      (after .jacobi (loaded 15 2 0)).j = .plusOne ∧ (after .jacobi (loaded 589 19 0)).j = .zero := by decide +kernel

/-- TJ24, TJ21: the fault clears J. -/
theorem test_jacobi_fault :
    (after .jacobi { loaded 588 5 0 with j := .plusOne, busy := true }).statusWord = 0x00000004 ∧
      (after .jacobi { loaded 1 5 0 with j := .plusOne }).faultWord = 0x00000002 ∧
      (after .jacobi { loaded 1 5 0 with j := .plusOne }).j = .zero := by decide +kernel

/-- TE6, TE2, TE5. -/
theorem test_modexp :
    (after .modexp (loaded 589 600 3)).r.toNat = 153 ∧ (after .modexp (loaded 589 0 0)).r.toNat = 1 ∧
      (after .modexp (loaded 589 2 10)).r.toNat = 435 := by decide +kernel

/-- TE12: a modulus of 4096 bits. -/
theorem test_modexp_widest : (after .modexp (loaded (2 ^ 4096 - 1) 2 4096)).r.toNat = 1 := by decide +kernel

/-- TS1, TS2. -/
theorem test_sqrt_root :
    (after .sqrt (key589 5)).r.toNat = 180 ∧ (after .sqrt (key589 5)).neg = false ∧
      (after .sqrt (key589 3)).r.toNat = 175 ∧ (after .sqrt (key589 3)).neg = true := by decide +kernel

/-- TS3. -/
theorem test_sqrt_fault :
    let t := after .sqrt { key589 2 with r := 7, neg := true, busy := true }
    t.statusWord = 0x0000000C ∧ t.faultWord = 0x00000107 ∧ t.r = 0 := by decide +kernel

/-- TU1: two discarded draws, an equal second prime, a pair one bit short, then the key. -/
theorem test_setup_key :
    let t := after (.setup 10) (accept 0x000A0004 (answering [2, 2, 7, 4, 1, 14] State.reset))
    t.p.toNat = 19 ∧ t.q.toNat = 31 ∧ t.n.toNat = 589 ∧ t.draws = 6 ∧ t.lenWord = 10 ∧
      t.statusWord = 0x0000000A := by decide +kernel

/-- TU11: the cap, with the old key gone. -/
theorem test_setup_cap :
    let t := after (.setup 10) (accept 0x000A0004 (answering [31, 31] { key589 0 with scap := 2 }))
    t.faultWord = 0x00000005 ∧ t.sk = false ∧ t.n = 0 ∧ t.draws = 2 := by decide +kernel

/-- TX2, TX1. -/
theorem test_xinit :
    (after .xinit (accept 5 { key589 0 with idlen := 17, iter := 9 })).statusWord = 0x0000004A ∧
      (after .xinit (accept 5 (key589 0))).faultWord = 0x00000006 := by decide +kernel

/-- TX9, TX12. -/
theorem test_xinit_session :
    (after .xinit { loaded 589 0 0 with idlen := 3 }).faultWord = 0x00000003 ∧
      (after .xinit { session589 0 with idlen := 3, iter := 2 }).iter = 0 := by decide +kernel

/-- TX5. -/
theorem test_xtry_accepts :
    let t := after .xtry (accept 6 { session589 3 with iter := 2 })
    t.statusWord = 0x0000003A ∧ t.iter = 3 ∧ t.r.toNat = 175 ∧ t.j.word = 0x00000001 := by decide +kernel

/-- TX3, TX7, TX6. -/
theorem test_xtry_other_ends :
    (after .xtry (accept 6 (session589 2))).statusWord = 0x0000004A ∧
      (after .xtry (accept 6 { session589 3 with iter := 2, xcap := 2 })).faultWord = 0x00000207 ∧
      (after .xtry (accept 6 { key589 3 with iter := 3 })).faultWord = 0x00000008 := by decide +kernel

/-! ### Step, reset and the random source -/

/-- TD20, TD9: placed as the first command after reset. -/
theorem test_first_command :
    (stepped (State.reset.withFetchWord 32 0x10020004)).faultWord = 0x00000004 ∧
      (stepped (State.reset.withFetchWord 32 0x00000008)).faultWord = 0x00000001 := by decide +kernel

/-- TZ7. -/
theorem test_rst_discards :
    stepped { inFlight 3 (key589 5) with xcap := 2, inputs := [.rst 0] } = State.reset := by decide +kernel

/-- 70_reset_and_hazards.md R243: the answers a discarded SETUP consumed stay consumed, and no other command draws. -/
theorem test_rst_consumes :
    let s := answering [2, 2, 7] { State.reset with scap := 3 }
    (stepped { inFlight 0x000A0004 s with inputs := [.rst 2] }).port.answers = [7] ∧
      (stepped { inFlight 0x000A0004 s with inputs := [.rst 9] }).port.taken = 3 ∧
      (stepped { inFlight 0x00000003 s with inputs := [.rst 2] }).port.taken = 0 := by decide +kernel

/-! ### The bus -/

/-- TB5. -/
theorem test_window_write :
    (busWrite 0x404 4 0xDEADBEEF State.reset).a.toNat = 0xDEADBEEF00000000 ∧
      (busRead 0x400 4 (busWrite 0x404 4 0xDEADBEEF State.reset)).1 = 0 := by decide +kernel

/-- TB6. -/
theorem test_top_limb : (busWrite 0x5FC 4 0x80000000 State.reset).a.toNat = 2 ^ 4095 := by decide +kernel

/-- TB7, TB8, TB9, TB10, TB11. -/
theorem test_refused :
    (busRead 0x402 4 State.reset).2.statusWord = 0x80 ∧ (busRead 0x200 2 State.reset).2.accErr = true ∧
      (busRead 0x030 4 State.reset).2.accErr = true ∧ (busWrite 0x800 4 5 State.reset).r = 0 ∧
      (busWrite 0x000 4 5 State.reset).accErr = true := by decide +kernel

/-- TB13, TB14. -/
theorem test_ctrl :
    (busRead 0x010 4 (busWrite 0x010 4 0xFFFFFFFE State.reset)).1 = 0 ∧
      (busRead 0x010 4 (busWrite 0x010 4 0xFFFFFFFF State.reset)).1 = 1 := by decide +kernel

/-- TB15. -/
theorem test_write_to_n_ends_the_key :
    let t := busWrite 0x200 4 0x0000024D { session589 0 with done := true }
    t.n.toNat = 589 ∧ t.p = 0 ∧ t.statusWord = 0x00000002 := by decide +kernel

/-- TB17, TB18, TB19. -/
theorem test_access_in_flight :
    let s := busWrite 0x004 4 0x000A0004 State.reset
    (busRead 0x200 4 s).2.statusWord = 0x00000081 ∧ (busWrite 0x004 4 0x00000007 s).cmdr = 0x000A0004 ∧
      (busWrite 0x010 4 1 s).ie = true := by decide +kernel

/-- TZ6, TZ5. -/
theorem test_acknowledge :
    let s : State := { State.reset with flt := true, code := 0x07, sub := 0x01, ie := true }
    (busWrite 0x008 4 4 s).faultWord = 0x00000107 ∧ (busWrite 0x008 4 4 s).irq = false ∧ s.irq = true ∧
      (busWrite 0x004 4 0 s).irq = false := by decide +kernel

/-! ### The host's side -/

/-- 45_host_sequences.md R186: the bits of `b"hi"`. -/
theorem test_bits_of_hi :
    bitsOfMessage [0x68, 0x69] =
        [false, true, true, false, true, false, false, false, false, true, true, false, true, false, false, true] ∧
      messageOfBits (bitsOfMessage [0x68, 0x69]) = some [0x68, 0x69] := by decide

/-- 20_memory.md R65: the identity 0x61, 0x62; TH1: two inverses modulo 589. -/
theorem test_identity_and_inverse :
    identityNumber [0x61, 0x62] = 0x6162 ∧ inverse 2 589 = some 295 ∧ inverse 6 589 = some 491 ∧
      inverse 19 589 = none := by decide +kernel

/-- A host at work on `s` with the draws `draws` and as many idle polls as `polls` says. -/
def hosted (s : State) (draws polls : List Nat) : HostState := { block := s, polls := polls, draws := draws, drawn := 0 }

/-- The value a sequence ends with. -/
def valueOf {α : Type} : HostOutcome α → Option α
  | .done x _ => some x
  | .polling _ => none

/-- TH1, TH2: the bits 0 and 1 in this order, with two polls before one engine turn. -/
theorem test_decryptBits :
    valueOf (decryptBits 589 175 3 [(298, 300), (152, 240)] (hosted (loaded 589 0 0) [] [2, 0, 1])) =
      some [false, true] := by decide +kernel

/-- TH1, with draws that are dropped before each witness: 3 has symbol +1, 2 is the first witness again. -/
theorem test_encryptBit :
    valueOf (encryptBit 3 589 .minusOne 3 (hosted (loaded 589 0 0) [3, 2, 2, 6] [])) = some (some (298, 300)) ∧
      valueOf (encryptBit 1 589 .minusOne 3 (hosted (loaded 589 0 0) [3, 2] [])) = some none := by
  decide +kernel

/-- 45_host_sequences.md R189: the empty message. -/
theorem test_empty_message :
    valueOf (encryptWith 1 [] 3 589 (hosted (loaded 589 0 0) [] [])) = some (some []) ∧
      valueOf (decrypt [] 175 3 589 (hosted (loaded 589 0 0) [] [])) = some (some []) := by decide +kernel

/-- R181 on TU1's answers, with three polls before the engine's turn; and R252: a silent source. -/
theorem test_pkgSetup :
    valueOf (pkgSetup 10 (hosted (answering [2, 2, 7, 4, 1, 14] State.reset) [] [3])) = some (.ok (589, 10)) ∧
      valueOf (pkgSetup 10 (hosted (silenced State.reset) [] [3])) = none := by decide +kernel

/-- R184: an absent identity and the empty text fail INVALID_IDENTITY; TX5: the third candidate of key 589. -/
theorem test_extract :
    valueOf (extractWith (fun _ => 3) .absent (hosted (key589 0) [] [])) = some (.failed 6) ∧
      valueOf (extractWith (fun _ => 3) (.text "") (hosted (key589 0) [] [])) = some (.failed 6) ∧
      valueOf (extractWith (fun _ => 3) (.bytes [0x61]) (hosted (key589 0) [] [])) =
        some (.key 175 3 true) := by decide +kernel

/-- R185: a refused modulus is told from a symbol of 0 by FLT. -/
theorem test_jac :
    valueOf (jac 5 (hosted (loaded 588 0 0) [] [])) = some { status := 0x00000004, jres := 0 } ∧
      valueOf (jac 19 (hosted (loaded 589 0 0) [] [1])) = some { status := 0x00000002, jres := 0 } := by
  decide +kernel

/-! ### Witnesses: states that meet the hypotheses of the statements -/

theorem blumKey_589 : BlumKey 19 31 589 := by
  exact ⟨by norm_num, by norm_num, by norm_num, by norm_num, by norm_num, by norm_num, 10, rfl, by decide, by decide,
    by decide⟩

theorem key589_values :
    (key589 0).p.toNat = 19 ∧ (key589 0).q.toNat = 31 ∧ (key589 0).n.toNat = 589 ∧ (key589 3).a.toNat = 3 ∧
      (key589 2).a.toNat = 2 ∧ (key589 19).a.toNat = 19 := by decide +kernel

theorem blumKey_key589 (a : Nat) : BlumKey (key589 a).p.toNat (key589 a).q.toNat (key589 a).n.toNat := by
  rw [show (key589 a).p.toNat = 19 from key589_values.1, show (key589 a).q.toNat = 31 from key589_values.2.1,
    show (key589 a).n.toNat = 589 from key589_values.2.2.1]
  exact blumKey_589

/-- Key 589 with an open session has the invariant. -/
theorem invariant_session589 (a : Nat) : Invariant (session589 a) :=
  ⟨fun _ => blumKey_key589 a, (fun h => nomatch h), fun _ => rfl, ⟨(fun h => nomatch h), (fun h => nomatch h)⟩,
    (fun h => nomatch h), fun _ => ⟨rfl, rfl⟩, .inl ⟨rfl, rfl⟩⟩

theorem jacobi_3_589 : jacobiSym ((key589 3).a.toNat : ℤ) (key589 3).n.toNat = 1 := by
  rw [show (key589 3).a.toNat = 3 from key589_values.2.2.2.1, show (key589 3).n.toNat = 589 from key589_values.2.2.1]
  norm_num

theorem jacobi_2_589 : jacobiSym ((key589 2).a.toNat : ℤ) (key589 2).n.toNat = -1 := by
  rw [show (key589 2).a.toNat = 2 from key589_values.2.2.2.2.1, show (key589 2).n.toNat = 589 from key589_values.2.2.1]
  norm_num

theorem jacobi_19_589 : jacobiSym ((key589 19).a.toNat : ℤ) (key589 19).n.toNat = 0 := by
  rw [show (key589 19).a.toNat = 19 from key589_values.2.2.2.2.2, show (key589 19).n.toNat = 589 from key589_values.2.2.1]
  norm_num

/-- Both clauses: a SQRT in flight, an idle block, and a SETUP in flight whose execution takes two answers. -/
theorem witness_ResetInputDiscardsEverything :
    (inFlight 3 (key589 5)).busy = true ∧ { inFlight 3 (key589 5) with inputs := [.rst 0] }.inputs = .rst 0 :: [] ∧
      (∀ imm16, decode 3 ≠ .ok (.setup imm16)) ∧ (key589 5).busy = false ∧
      (let s := inFlight 0x000A0004 (answering [1, 14] State.reset)
       s.busy = true ∧ decode s.cmdr = .ok (.setup 10) ∧ (after (.setup 10) s).port.taken = 2) := by
  refine ⟨rfl, rfl, fun imm16 h => ?_, rfl, by decide +kernel⟩
  rw [show decode 3 = .ok .sqrt by decide] at h
  cases h

theorem witness_StepRunsTheDecodedCommand :
    (inFlight 3 (key589 5)).busy = true ∧ decode (inFlight 3 (key589 5)).cmdr = .ok .sqrt ∧
      (inFlight 3 (key589 5)).inputs = [] ∧
      { inFlight 3 (key589 5) with inputs := [.engine, .rst 0] }.inputs = .engine :: [.rst 0] := by decide

theorem witness_IllegalWordEndsInItsFault :
    (inFlight 8 State.reset).busy = true ∧ EngineNext (inFlight 8 State.reset) ∧
      decode (inFlight 8 State.reset).cmdr = .error .unknownOpcode := ⟨rfl, .inl rfl, by decide⟩

theorem witness_CommandEndsInDoneOrFault :
    let s := inFlight 0x00000004 State.reset
    s.busy = true ∧ s.done = false ∧ s.flt = false ∧ EngineNext s ∧ DrawsAnswered s :=
  ⟨rfl, rfl, rfl, .inl rfl, rfl⟩

theorem witness_DecodeOfEncodeIsTheCommand :
    (Instr.setup 0).wellFormed = true ∧ (Instr.setup 65535).wellFormed = true ∧ Instr.xtry.wellFormed = true := by decide

theorem witness_EncodeOfDecodeIsTheWord :
    decode 0xFFFF0004 = .ok (.setup 65535) ∧ decode 0x00000007 = .ok .zeroize := by decide

/-- Illegal words at the edge of each condition, legal words beside them, and an idle block. -/
theorem witness_IllegalWordsAreExactlyThese :
    (0x07 < 0x08 ∧ (0x01 : Byte) ≠ 0 ∧ (0x05 : Byte) ≠ 0x04) ∧ decode 0x00000007 = .ok .zeroize ∧
      decode 0xFFFF0004 = .ok (.setup 65535) ∧ State.reset.busy = false := by decide

theorem witness_NopChangesOnlyTheLifeCycle : State.reset.busy = false := rfl

theorem witness_ZeroizeLeavesTheResetStateButForTheControls : (key589 5).busy = false := rfl

theorem witness_JacobiAlgorithmComputesTheSymbol : 1 % 2 = 1 ∧ 589 % 2 = 1 := by decide

/-- Both clauses, at the least legal and the greatest illegal modulus below it, and an even one. -/
theorem witness_JacobiWritesTheSymbolOrFaults :
    (loaded 3 2 0).n.toNat % 2 = 1 ∧ 3 ≤ (loaded 3 2 0).n.toNat ∧ (loaded 2 1 0).n.toNat % 2 = 0 ∧
      (loaded 1 1 0).n.toNat < 3 := by decide +kernel

theorem witness_ModexpWritesThePowerOrFaults :
    (loaded 3 0 0).n.toNat % 2 = 1 ∧ 3 ≤ (loaded 3 0 0).n.toNat ∧ (loaded 588 5 3).n.toNat % 2 = 0 ∧
      (loaded 1 5 3).n.toNat < 3 := by decide +kernel

theorem witness_RootExponentIsExact : BlumKey 19 31 589 := blumKey_589

/-- Each clause on key 589: 5 is a residue modulo both primes, 3 modulo neither, 2 modulo one, 19 has symbol 0. -/
theorem witness_RootFormulaFollowsTheLegendreSymbols :
    BlumKey 19 31 589 ∧ (legendre 5 19 = 1 ∧ legendre 5 31 = 1) ∧ (legendre 3 19 = -1 ∧ legendre 3 31 = -1) ∧
      legendre 2 19 * legendre 2 31 = -1 ∧ legendre 19 19 * legendre 19 31 = 0 := by
  have leg : ∀ a p : Nat, legendre a p =
      if a % p = 0 then 0 else if ∃ x : Fin p, x.val * x.val % p = a % p then 1 else -1 := by
    intro a p
    unfold legendre
    have : (∃ x, x < p ∧ x * x % p = a % p) ↔ ∃ x : Fin p, x.val * x.val % p = a % p :=
      ⟨fun ⟨x, h, hx⟩ => ⟨⟨x, h⟩, hx⟩, fun ⟨x, hx⟩ => ⟨x, x.isLt, hx⟩⟩
    simp only [this]
  refine ⟨blumKey_589, ?_⟩
  simp only [leg]
  decide +kernel

/-- The four clauses: no key; A = 5, 3 and 2 on key 589 (TS14, TS1, TS2, TS3). -/
theorem witness_SqrtFollowsItsVerification :
    (loaded 589 3 0).sk = false ∧ (key589 5).sk = true ∧ 5 ^ 68 % 589 * (5 ^ 68 % 589) % 589 = 5 ∧
      3 ^ 68 % 589 * (3 ^ 68 % 589) % 589 = 589 - 3 ∧ 2 ^ 68 % 589 * (2 ^ 68 % 589) % 589 = 188 ∧
      (key589 3).rootCheck = .neg ∧ (key589 2).rootCheck = .fail := by decide +kernel

theorem witness_SqrtCompletesUnlessTheSymbolIsMinusOne :
    (key589 3).sk = true ∧ BlumKey (key589 3).p.toNat (key589 3).q.toNat (key589 3).n.toNat ∧
      jacobiSym ((key589 3).a.toNat : ℤ) (key589 3).n.toNat ≠ -1 ∧
      jacobiSym ((key589 2).a.toNat : ℤ) (key589 2).n.toNat = -1 :=
  ⟨rfl, blumKey_key589 3, by rw [jacobi_3_589]; decide, jacobi_2_589⟩

/-- The boundary lengths: 1 and 65535 are odd, 4098 is the least even length that is too long. -/
theorem witness_SetupRefusesBadLengths :
    (if 1 = 0 then 2048 else 1) % 2 = 1 ∧ (if 65535 = 0 then 2048 else 65535) % 2 = 1 ∧
      4096 < (if 4098 = 0 then 2048 else 4098) := by decide

theorem witness_SetupMakesAKeyOfTheLengthOrFails :
    (if 0 = 0 then 2048 else 0) % 2 = 0 ∧ (if 2 = 0 then 2048 else 2) ≤ 4096 ∧
      (if 4096 = 0 then 2048 else 4096) ≤ 4096 ∧ DrawsAnswered State.reset := ⟨rfl, by decide, by decide, rfl⟩

/-- `p` is the least prime above the `h`-bit candidate of `v`, for small numbers. -/
theorem least_of {h p : Nat} {v : BitVec Config.portBits} (hp : p.Prime) (hlt : candidateOf h v < p)
    (hno : ∀ y : Fin p, candidateOf h v < y → ∃ d : Fin y, 2 ≤ d.val ∧ y.val % d.val = 0) :
    LeastPrimeAbove (candidateOf h v) p := by
  refine ⟨hp, hlt, fun y h1 h2 hy => ?_⟩
  obtain ⟨d, hd, hmod⟩ := hno ⟨y, h2⟩ h1
  rcases (Nat.dvd_prime hy).mp (Nat.dvd_of_mod_eq_zero hmod) with h | h
  · omega
  · have := d.isLt
    simp only at this h
    omega

theorem least_1 : LeastPrimeAbove (candidateOf 5 1#Config.portBits) 19 :=
  least_of (by norm_num) (by decide +kernel) (by decide +kernel)

theorem least_14 : LeastPrimeAbove (candidateOf 5 14#Config.portBits) 31 :=
  least_of (by norm_num) (by decide +kernel) (by decide +kernel)

/-- The answers 1 and 14 at length 10, with the smallest cap that allows two draws (the last pair of R139). -/
theorem witness_SetupCompletesOnTwoGoodAnswers :
    let s := answering [1, 14] { State.reset with scap := 2 }
    (10 % 2 = 0 ∧ 10 ≤ 4096 ∧ 2 ≤ s.scap.toNat ∧ s.port.answers = [1#Config.portBits, 14#Config.portBits]) ∧
      LeastPrimeAbove (candidateOf 5 1#Config.portBits) 19 ∧ LeastPrimeAbove (candidateOf 5 14#Config.portBits) 31 ∧
      19 % 4 = 3 ∧ 31 % 4 = 3 ∧ 19 ≠ 31 ∧ HasLength (19 * 31) 10 := by
  exact ⟨by decide +kernel, least_1, least_14, by decide, by decide, by decide, by decide, by decide⟩

theorem witness_SetupOfTheSmallestLengthsAlwaysFails : DrawsAnswered (answering [1, 3, 2, 1] State.reset) := rfl

/-- A source that falls silent after one answer, which is one draw short of a key. -/
def fallsSilent : State := { State.reset with port := { answers := [2#Config.portBits], taken := 0, silent := true } }

/-- A key takes two answers at least. -/
theorem not_makesKey_short {L p q : Nat} {answers : List (BitVec Config.portBits)} (hl : answers.length < 2) :
    ¬ DrawsMakeKey L answers p q := by
  have prime : ∀ {h p : Nat} {l : List (BitVec Config.portBits)}, DrawsMakePrime h l p → 1 ≤ l.length := by
    intro h p l hp
    cases hp <;> simp
  have other : ∀ {h p q : Nat} {l : List (BitVec Config.portBits)}, DrawsMakeOtherPrime h p l q → 1 ≤ l.length := by
    intro h p q l hq
    cases hq with
    | accept hq _ => exact prime hq
    | again hq _ => have := prime hq; simp only [List.length_append]; omega
  intro hk
  cases hk with
  | accept h1 h2 _ => have := prime h1; have := other h2; simp only [List.length_append] at hl; omega
  | discard h1 h2 _ _ => have := prime h1; have := other h2; simp only [List.length_append] at hl; omega

theorem witness_SetupWaitsForASilentSource :
    (silenced State.reset).port.silent = true ∧ (silenced State.reset).port.answers = [] ∧
      (silenced State.reset).scap ≠ 0 ∧ { silenced State.reset with scap := 0 }.scap = 0 ∧
      fallsSilent.port.silent = true ∧ fallsSilent.port.answers.length < fallsSilent.scap.toNat ∧
      fallsSilent.port.answers ≠ [] ∧ NoKeyWithin 10 fallsSilent.scap.toNat fallsSilent.port.answers :=
  ⟨rfl, rfl, by decide, rfl, rfl, by decide, by decide, fun used p q hp _ =>
    not_makesKey_short (Nat.lt_of_le_of_lt hp.length_le (by decide))⟩

theorem witness_XinitChecksTheIdentityThenTheKey :
    State.reset.idlen = 0 ∧ { State.reset with idlen := 1 }.idlen ≠ 0 ∧ State.reset.sk = false ∧ (key589 0).sk = true := by
  decide

theorem witness_XtryFaultsWithoutSessionAndAtTheCap :
    (key589 3).xact = false ∧ (session589 3).xact = true ∧
      { session589 3 with iter := 2, xcap := 2 }.xcap.toNat ≤ { session589 3 with iter := 2, xcap := 2 }.iter.toNat := by
  decide

/-- The last candidate the cap allows, with symbol −1 and with symbol 0. -/
theorem witness_XtryRejectsOtherSymbols :
    (session589 2).xact = true ∧ { session589 2 with iter := 9999 }.iter.toNat < (session589 2).xcap.toNat ∧
      (session589 2).n.toNat % 2 = 1 ∧ jacobiSym ((session589 2).a.toNat : ℤ) (session589 2).n.toNat ≠ 1 ∧
      jacobiSym ((session589 19).a.toNat : ℤ) (session589 19).n.toNat ≠ 1 :=
  ⟨rfl, by decide, by decide +kernel, by
    rw [show jacobiSym ((session589 2).a.toNat : ℤ) (session589 2).n.toNat = -1 from jacobi_2_589]; decide, by
    rw [show jacobiSym ((session589 19).a.toNat : ℤ) (session589 19).n.toNat = 0 from jacobi_19_589]; decide⟩

theorem witness_XtryAcceptsWithAVerifiedRoot :
    (session589 3).xact = true ∧ { session589 3 with iter := 9999 }.iter.toNat < (session589 3).xcap.toNat ∧
      BlumKey (session589 3).p.toNat (session589 3).q.toNat (session589 3).n.toNat ∧
      jacobiSym ((session589 3).a.toNat : ℤ) (session589 3).n.toNat = 1 :=
  ⟨rfl, by decide, blumKey_key589 3, jacobi_3_589⟩

/-- P = 3, Q = 7 beside N = 589: exponent 73, and `(3^73 mod 589)²` is neither 3 nor −3. -/
theorem witness_XtryFaultsOnABrokenKey :
    brokenKey.xact = true ∧ brokenKey.iter.toNat < brokenKey.xcap.toNat ∧ brokenKey.n.toNat % 2 = 1 ∧
      jacobiSym (brokenKey.a.toNat : ℤ) brokenKey.n.toNat = 1 ∧ brokenKey.rootCheck = .fail ∧
      (589 + 5 - (3 + 7)) / 8 = 73 ∧ 3 ^ 73 % 589 * (3 ^ 73 % 589) % 589 ≠ 3 % 589 ∧
      3 ^ 73 % 589 * (3 ^ 73 % 589) % 589 ≠ (589 - 3 % 589) % 589 :=
  ⟨rfl, by decide, by decide +kernel, jacobi_3_589, by decide +kernel, by decide, by decide +kernel,
    by decide +kernel⟩

/-- A command with a next state: the hypothesis of the statements about every command. -/
theorem witness_CommandsLeaveOperandsAndControls :
    (∃ t, exec .xtry (loaded 589 2 10) = .next t) ∧ Instr.xtry ≠ .zeroize := ⟨⟨_, rfl⟩, by decide⟩

theorem witness_ResultStaysBelowTheModulus :
    0 < (loaded 1 1 0).n.toNat ∧ ∃ t, exec .xtry (loaded 1 1 0) = .next t := ⟨by decide +kernel, _, rfl⟩

/-- Every command that can fault, faulting. -/
theorem witness_FaultsLeaveNoResult :
    State.reset.flt = false ∧ ∀ i ∈ [Instr.jacobi, .modexp, .sqrt, .setup 3, .xinit, .xtry],
      (after i State.reset).flt = true := by decide +kernel

theorem witness_FaultCodesOfEachCommand :
    (key589 2).flt = false ∧ (after .sqrt (key589 2)).flt = true ∧
      (after .xtry { session589 3 with xcap := 0 }).flt = true ∧ (after .xtry brokenKey).flt = true := by decide +kernel

/-- The last number below the cap, so that ITER reaches XCAP. -/
theorem witness_CountersStayWithinTheirCaps :
    (after .xtry { session589 2 with iter := 0xFFFFFFFE, xcap := 0xFFFFFFFF }).iter = 0xFFFFFFFF ∧
      (after (.setup 10) (answering [1, 14] { State.reset with scap := 2 })).draws = 2 := by decide +kernel

theorem witness_SessionFlagAfterEachEvent :
    DrawsAnswered (session589 2) ∧ (session589 2).n.toNat % 2 = 1 ∧ (after .xtry (session589 2)).xact = true ∧
      (session589 0).busy = false := ⟨rfl, by decide +kernel, by decide +kernel, rfl⟩

theorem witness_EveryStepKeepsTheInvariant :
    Invariant (session589 3) ∧ ∃ t, step (session589 3) = .next t := ⟨invariant_session589 3, _, rfl⟩

theorem witness_HostCannotReadTheSecrets :
    DifferOnlyInSecrets (key589 3) { key589 3 with p := big 23 } ∧ key589 3 ≠ { key589 3 with p := big 23 } := by
  exact ⟨rfl, by decide +kernel⟩

theorem witness_OnlyRootCommandsReadTheSecrets :
    DifferOnlyInSecrets (key589 3) { key589 3 with p := big 23 } ∧ ∃ t, exec .nop (key589 3) = .next t :=
  ⟨rfl, _, rfl⟩

/-- A SETUP that makes a key: the third alternative. -/
theorem witness_OnlySetupWritesTheSecrets :
    (stepped (inFlight 0x000A0004 (answering [1, 14] State.reset))).p.toNat = 19 := by decide +kernel

/-- The three ways, the write at both ends of the window. -/
theorem witness_ModulusChangesOnlyByTheseEvents :
    (stepped { key589 0 with inputs := [.rst 0] }).n ≠ (key589 0).n ∧
      (stepped { key589 0 with inputs := [.write 0x200 4 5] }).n ≠ (key589 0).n ∧
      (stepped { key589 0 with inputs := [.write 0x3FC 4 5] }).n ≠ (key589 0).n ∧
      (stepped (inFlight 7 (key589 0))).n ≠ (key589 0).n := by decide +kernel

theorem witness_OnlyXinitOpensASession :
    (inFlight 5 { key589 0 with idlen := 1 }).xact = false ∧
      (stepped (inFlight 5 { key589 0 with idlen := 1 })).xact = true := by decide +kernel

theorem witness_MisalignedOrWrongSizedAccessIsRefused : (2 ≠ 4 ∧ 8 ≠ 4) ∧ (0x401 : Offset).toNat % 4 ≠ 0 := by decide

/-- Each clause at the ends of its ranges. -/
theorem witness_UnmappedAndReadOnlyAccessIsRefused :
    (∀ off ∈ [0x030, 0x1FC, 0xA00, 0xFFC, 0x000, 0x02C, 0x800, 0x9FC, 0x200], off % 4 = 0 ∧ off < 4096) ∧
      (0x02C : Offset).toNat < 0x030 ∧ (0x9FC : Offset).toNat < 0xA00 ∧ State.reset.busy = false := by decide

theorem witness_AccessIsRefusedWhileACommandIsInFlight :
    (inFlight 0x000A0004 State.reset).busy = true ∧ (0x004 : Offset) ≠ 0x000 ∧ (0x004 : Offset) ≠ 0x008 ∧
      (0x004 : Offset) ≠ 0x010 := by decide

theorem witness_InterruptFollowsCompletion :
    (0x6 : Word).getLsbD 1 = true ∧ (0x6 : Word).getLsbD 2 = true ∧ State.reset.busy = false := by decide

theorem witness_ControlRegistersReadTheirFields :
    (key589 5).busy = false ∧ (key589 5).n ≠ 0 ∧ State.reset.busy = false ∧ State.reset.n = 0 := by decide +kernel

theorem witness_WindowsShowTheLimbs : (key589 5).busy = false ∧ 0 < 128 ∧ 127 < 128 := by decide

theorem witness_WindowWriteReplacesOneLimb : (session589 5).busy = false ∧ 0 < 128 ∧ 127 < 128 := by decide

theorem witness_BigNumberTransfersRoundTrip : State.reset.busy = false ∧ 2 ^ 4096 - 1 < 2 ^ 4096 := by decide +kernel

theorem witness_LoadPublicLeavesNoKey : (key589 5).busy = false ∧ 589 < 2 ^ 4096 := by decide +kernel

/-- Both clauses, at the least legal modulus and the greatest one below it. -/
theorem witness_JacReadsTheSymbol :
    (hosted (loaded 3 0 0) [] [1]).block.busy = false ∧ 2 ^ 4096 - 1 < 2 ^ 4096 ∧ (loaded 3 0 0).n.toNat % 2 = 1 ∧
      3 ≤ (loaded 3 0 0).n.toNat ∧ (loaded 2 0 0).n.toNat % 2 = 0 ∧ (loaded 1 0 0).n.toNat < 3 := by
  decide +kernel

theorem witness_HostWritesOfTheControlRegisters : State.reset.busy = false := rfl

theorem witness_StepServesTheNextEvent :
    { State.reset with inputs := [.write 0x024 4 7, .idle] }.inputs = .write 0x024 4 7 :: [.idle] ∧
      { State.reset with inputs := [.read 0x000 4] }.inputs = .read 0x000 4 :: [] ∧
      { State.reset with inputs := [.engine] }.busy = false ∧ State.reset.inputs = [] := by decide

theorem draw_19 : DrawsMakePrime 5 [2#Config.portBits] 19 :=
  .accept (least_of (by norm_num) (by decide +kernel) (by decide +kernel)) rfl

theorem draw_23 : DrawsMakePrime 5 [7#Config.portBits, 4#Config.portBits] 23 :=
  .drop (p := 23) (c := 29) (least_of (by norm_num) (by decide +kernel) (by decide +kernel)) (by decide)
    (.accept (least_of (by norm_num) (by decide +kernel) (by decide +kernel)) rfl)

theorem draw_19' : DrawsMakePrime 5 [1#Config.portBits] 19 := .accept least_1 rfl

theorem draw_31 : DrawsMakePrime 5 [14#Config.portBits] 31 := .accept least_14 rfl

/-- R139, step by step: an equal second prime is made again, a prime that is 1 modulo 4 is dropped, a pair one bit short
is discarded. -/
theorem r139_key : DrawsMakeKey 10
    ([2#Config.portBits] ++ ([2#Config.portBits] ++ [7#Config.portBits, 4#Config.portBits]) ++
      ([1#Config.portBits] ++ [14#Config.portBits])) 19 31 :=
  .discard draw_19 (.again draw_19 (.accept draw_23 (by decide))) (fun h => absurd h.1 (by decide))
    (.accept draw_19' (.accept draw_31 (by decide)) ⟨by decide, by decide⟩)

/-- Both clauses: R139 with a cap of exactly six draws, and a cap of one draw, within which no key can be made. -/
theorem witness_SetupFollowsItsDraws :
    (let s := answering [2, 2, 7, 4, 1, 14, 9] { State.reset with scap := 6 }
     let used := [2#Config.portBits] ++ ([2#Config.portBits] ++ [7#Config.portBits, 4#Config.portBits]) ++
      ([1#Config.portBits] ++ [14#Config.portBits])
     s.port.answers = used ++ [9#Config.portBits] ∧ used.length ≤ s.scap.toNat ∧ DrawsMakeKey 10 used 19 31) ∧
    (let s := answering [1] { State.reset with scap := 1 }
     s.scap.toNat ≤ s.port.answers.length ∧ NoKeyWithin 10 s.scap.toNat s.port.answers) :=
  ⟨⟨rfl, by decide, r139_key⟩, by decide, fun _ _ _ _ hl => not_makesKey_short (Nat.lt_of_le_of_lt hl (by decide))⟩

/-- Both clauses: a NOP ends, a SETUP on a silent source does not. -/
theorem witness_WaitEndsWithTheCommand :
    (engineTurn (inFlight 0 (key589 5)) = .next (complete (inFlight 0 (key589 5))) ∧
      (complete (inFlight 0 (key589 5))).busy = false) ∧
    engineTurn (inFlight 0x000A0004 (silenced State.reset)) = .next (inFlight 0x000A0004 (silenced State.reset)) ∧
    (inFlight 0x000A0004 (silenced State.reset)).busy = true := ⟨⟨rfl, rfl⟩, rfl, rfl⟩

/-- The pair of TH1 (bit 0, `175² ≡ −3`) and a pair for bit 1 with `180² ≡ 5`. -/
theorem witness_EncryptedBitsDecrypt :
    (589 % 2 = 1 ∧ 3 ≤ 589 ∧ 589 < 2 ^ 4096 ∧ (hosted (loaded 589 0 0) [] []).block.n = big 589 ∧
      (hosted (loaded 589 0 0) [] []).block.busy = false) ∧
    valueOf (encryptBit 3 589 (polarity false) 3 (hosted (loaded 589 0 0) [3, 2, 2, 6] [])) = some (some (298, 300)) ∧
    ((2 * 295 % 589 = 1 ∧ 6 * 491 % 589 = 1) ∧ (3 * 393 % 589 = 1 ∧ 7 * 505 % 589 = 1)) ∧
    (jacobiSym 2 589 = -1 ∧ jacobiSym 6 589 = -1 ∧ jacobiSym 3 589 = 1 ∧ jacobiSym 7 589 = 1) ∧
    (((298 : ℤ) ≡ 2 + 3 * 295 [ZMOD 589]) ∧ (300 : ℤ) ≡ 6 - 3 * 491 [ZMOD 589]) ∧
    (((201 : ℤ) ≡ 3 + 5 * 393 [ZMOD 589]) ∧ (427 : ℤ) ≡ 7 - 5 * 505 [ZMOD 589]) ∧
    ((175 * 175 : ℤ) ≡ -3 [ZMOD 589] ∧ ¬ (175 * 175 : ℤ) ≡ 3 [ZMOD 589] ∧ (6 + 175).Coprime 589) ∧
    (180 * 180 : ℤ) ≡ 5 [ZMOD 589] ∧ (3 + 180).Coprime 589 := by
  refine ⟨by decide +kernel, by decide +kernel, by decide, ?_, by decide, by decide, by decide, by decide⟩
  norm_num

end Sys2Proof.Tests
end

/-! ### The Jacobi symbol (40_jacobi.md R110, R111) -/

namespace Sys2Proof.Machine

@[simp] theorem JacobiValue.toInt_flip (t : JacobiValue) : t.flip.toInt = -t.toInt := by
  cases t <;> rfl

theorem JacobiValue.eq_plusOne_iff (t : JacobiValue) : t = .plusOne ↔ t.toInt = 1 := by
  cases t <;> simp [JacobiValue.toInt]

/-- The inner loop of R111 leaves an odd number, no larger, and moves the sign rule for 2 into the value. -/
theorem halveOut_spec {n : Nat} (hn : n % 2 = 1) : ∀ (fuel a : Nat) (t : JacobiValue), 0 < a → a ≤ fuel →
    (halveOut fuel a n t).1 % 2 = 1 ∧ (halveOut fuel a n t).1 ≤ a ∧
      (halveOut fuel a n t).2.toInt * jacobiSym ((halveOut fuel a n t).1 : ℤ) n = t.toInt * jacobiSym (a : ℤ) n := by
  intro fuel
  induction fuel with
  | zero => intro a t h0 hle; omega
  | succ fuel ih =>
    intro a t h0 hle
    unfold halveOut
    by_cases ha : a % 2 = 0
    · obtain ⟨hodd, hlow, hval⟩ := ih (a / 2) (if n % 8 = 3 ∨ n % 8 = 5 then t.flip else t) (by omega) (by omega)
      have htwo := jacobiSym.even_odd (a := a) (b := n) (by omega) hn
      simp only [ha, if_true]
      refine ⟨hodd, by omega, hval.trans ?_⟩
      rw [← htwo, Int.natCast_ediv, Nat.cast_ofNat]
      split <;> simp
    · simp only [ha, if_false]
      exact ⟨by omega, le_rfl, trivial⟩

/-- The outer loop of R111 multiplies its sign by the symbol: reciprocity at each swap, `mod` at each reduction. -/
theorem jacobiLoop_spec : ∀ (fuel a n : Nat) (t : JacobiValue), n % 2 = 1 → a < n → n < fuel →
    (jacobiLoop fuel a n t).toInt = t.toInt * jacobiSym (a : ℤ) n := by
  intro fuel
  induction fuel with
  | zero => intro a n t hn ha hf; omega
  | succ fuel ih =>
    intro a n t hn ha hf
    unfold jacobiLoop
    by_cases h0 : a = 0
    · subst h0
      by_cases h1 : n = 1
      · simp [h1]
      · simp [h1, jacobiSym.zero_left (show 1 < n by omega), JacobiValue.toInt]
    · obtain ⟨hodd, hle, hval⟩ := halveOut_spec hn a a t (by omega) le_rfl
      simp only [h0, if_false]
      generalize halveOut a a n t = halved at hodd hle hval ⊢
      rw [ih _ _ _ hodd (Nat.mod_lt _ (by omega)) (by omega), ← hval, Int.natCast_mod, ← jacobiSym.mod_left,
        ← jacobiSym.quadratic_reciprocity_if hodd hn]
      split <;> simp

/-- The algorithm of R111 computes the Jacobi symbol, in Mathlib's words. -/
theorem toInt_jacobi (a : Nat) {n : Nat} (hn : n % 2 = 1) : (jacobi a n).toInt = jacobiSym (a : ℤ) n := by
  rw [jacobi, jacobiLoop_spec _ _ _ _ hn (Nat.mod_lt _ (by omega)) (Nat.lt_succ_self n), Int.natCast_mod,
    ← jacobiSym.mod_left]
  simp [JacobiValue.toInt]

theorem jacobi_eq_plusOne_iff (a : Nat) {n : Nat} (hn : n % 2 = 1) :
    jacobi a n = .plusOne ↔ jacobiSym (a : ℤ) n = 1 := by
  rw [JacobiValue.eq_plusOne_iff, toInt_jacobi a hn]

end Sys2Proof.Machine

/-! ### What a command does to the key, the session and the life cycle -/

namespace Sys2Proof.Machine

/-- SK, P, Q and N are as they were. -/
structure KeyKept (s t : State) : Prop where
  sk : t.sk = s.sk
  p : t.p = s.p
  q : t.q = s.q
  n : t.n = s.n

/-- `s` with the result registers, ITER and the session flag of `u`: all that a command other than SETUP and ZEROIZE
writes before its end. -/
def withResultsOf (u s : State) : State :=
  { s with r := u.r, j := u.j, acc := u.acc, neg := u.neg, iter := u.iter, xact := u.xact }

/-- No key and no session (10_state.md R50). -/
structure KeyDropped (t : State) : Prop where
  sk : t.sk = false
  p : t.p = 0
  q : t.q = 0
  xact : t.xact = false

/-- A SETUP ended normally with a new key, in no session (42_blum_setup.md R137). -/
structure KeyMade (t : State) : Prop where
  sk : t.sk = true
  xact : t.xact = false
  done : t.done = true
  key : BlumKey t.p.toNat t.q.toNat t.n.toNat

/-- `t` ends the command of `s` with the fault `k`, in the life-cycle and fault fields (60_exceptions.md R203). -/
structure Faulted (k : CommandFault) (s t : State) : Prop where
  busy : t.busy = false
  done : t.done = s.done
  flt : t.flt = true
  code : t.code = k.code
  sub : t.sub = k.sub

/-- `t` ends the command of `s` normally, in the life-cycle and fault fields (60_exceptions.md R202). -/
structure Completed (s t : State) : Prop where
  busy : t.busy = false
  done : t.done = true
  flt : t.flt = s.flt
  code : t.code = s.code
  sub : t.sub = s.sub

theorem faulted_raiseFault {k : CommandFault} {s u : State} (hdone : u.done = s.done) : Faulted k s (raiseFault k u) :=
  ⟨rfl, hdone, rfl, rfl, rfl⟩

theorem completed_complete {s u : State} (hflt : u.flt = s.flt) (hcode : u.code = s.code) (hsub : u.sub = s.sub) :
    Completed s (complete u) :=
  ⟨rfl, rfl, hflt, hcode, hsub⟩

/-- R93, R207: a length SETUP takes is even and fits the register. -/
theorem badLength_eq_false_iff (L : Nat) : badLength L = false ↔ L % 2 = 0 ∧ L ≤ Config.W := by
  simp [badLength]

/-- R8: the length of a number that is not 0, in the words of `HasLength`. -/
theorem hasLength_bitlen {n : Nat} (hn : n ≠ 0) : HasLength n (bitlen n) :=
  (bitlen_eq_iff (lt_bitlen_iff.mpr (Nat.one_le_iff_ne_zero.mpr hn))).mp rfl

/-- R134 to R136: a pair the search of SETUP commits is a Blum key. -/
theorem blumKey_of_candidates {h L p q : Nat} (hL : badLength L = false) (hp : IsBlumCandidate h p)
    (hq : IsBlumCandidate h q) (hne : q ≠ p) (hlen : bitlen (p * q) = L) : BlumKey p q (p * q) := by
  obtain ⟨hpp, hp4, -⟩ := hp
  obtain ⟨hqp, hq4, -⟩ := hq
  obtain ⟨heven, hfit⟩ := (badLength_eq_false_iff L).mp hL
  exact ⟨hpp, hqp, hp4, hq4, hne.symm, rfl, L, heven, hfit,
    hlen ▸ hasLength_bitlen (Nat.mul_ne_zero hpp.ne_zero hqp.ne_zero)⟩

/-- A Blum key fits its registers (10_state.md R27). -/
theorem BlumKey.toNat_big {p q n : Nat} (h : BlumKey p q n) :
    (big p).toNat = p ∧ (big q).toNat = q ∧ (big n).toNat = n := by
  obtain ⟨L, -, hfit, -, hlt⟩ := h.length
  have hn : n < 2 ^ Config.W := lt_of_lt_of_le hlt (Nat.pow_le_pow_right (by omega) hfit)
  have hp : p ≤ n := h.product ▸ Nat.le_mul_of_pos_right p h.primeQ.pos
  have hq : q ≤ n := h.product ▸ Nat.le_mul_of_pos_left q h.primeP.pos
  exact ⟨big_toNat (lt_of_le_of_lt hp hn), big_toNat (lt_of_le_of_lt hq hn), big_toNat hn⟩

/-- R137: a commit of a Blum key, however the rest of the state stands. -/
theorem keyMade_commitKey {p q : Nat} (h : BlumKey p q (p * q)) {u : State} (hx : u.xact = false) :
    KeyMade (complete (commitKey p q u)) := by
  obtain ⟨hp, hq, hn⟩ := h.toNat_big
  refine ⟨rfl, hx, rfl, ?_⟩
  simp only [complete_p, complete_q, complete_n, commitKey_p, commitKey_q, commitKey_n, hp, hq, hn]
  exact h

/-- Everything a command can do: ZEROIZE, SETUP, or an end after changes of the result registers and the session. -/
theorem exec_cases {i : Instr} {s t : State} (h : exec i s = .next t) :
    (i = .zeroize ∧ t = complete (wipe s)) ∨ (∃ imm16, i = .setup imm16 ∧ execSetup imm16 s = .next t) ∨
      ∃ u, t = complete (withResultsOf u s) ∨ ∃ k, t = raiseFault k (withResultsOf u s) := by
  cases i with
  | zeroize => exact .inl ⟨rfl, execZeroize_cases h⟩
  | setup imm16 => exact .inr (.inl ⟨imm16, rfl, h⟩)
  | nop => exact .inr (.inr ⟨s, .inl (execNop_cases h)⟩)
  | jacobi =>
    refine .inr (.inr ⟨t, ?_⟩)
    rcases execJacobi_cases h with ⟨-, rfl⟩ | ⟨-, rfl⟩
    · exact .inr ⟨.badModulus, rfl⟩
    · exact .inl rfl
  | modexp =>
    refine .inr (.inr ⟨t, ?_⟩)
    rcases execModexp_cases h with ⟨-, rfl⟩ | ⟨-, rfl⟩
    · exact .inr ⟨.badModulus, rfl⟩
    · exact .inl rfl
  | sqrt =>
    refine .inr (.inr ⟨t, ?_⟩)
    rcases execSqrt_cases h with ⟨-, rfl⟩ | ⟨-, -, rfl⟩ | ⟨-, -, rfl⟩
    · exact .inr ⟨.noKey, rfl⟩
    · exact .inr ⟨.verificationFailed, rfl⟩
    · exact .inl rfl
  | xinit =>
    refine .inr (.inr ⟨t, ?_⟩)
    rcases execXinit_cases h with ⟨-, rfl⟩ | ⟨-, -, rfl⟩ | ⟨-, -, rfl⟩
    · exact .inr ⟨.invalidIdentity, rfl⟩
    · exact .inr ⟨.noKey, rfl⟩
    · exact .inl rfl
  | xtry =>
    refine .inr (.inr ⟨t, ?_⟩)
    rcases execXtry_cases h with ⟨-, rfl⟩ | ⟨-, -, rfl⟩ | ⟨-, -, -, rfl⟩ | ⟨-, -, -, -, rfl⟩ | ⟨-, -, -, -, rfl⟩
    · exact .inr ⟨.sequence, rfl⟩
    · exact .inr ⟨.capExhausted, rfl⟩
    · exact .inl rfl
    · exact .inr ⟨.verificationFailed, rfl⟩
    · exact .inl rfl

/-- R26, R27: only ZEROIZE and SETUP write SK, P, Q and N; either leaves no key, or SETUP makes one. -/
theorem exec_key {i : Instr} {s t : State} (h : exec i s = .next t) :
    KeyKept s t ∨ ((i = .zeroize ∨ ∃ imm16, i = .setup imm16) ∧ KeyDropped t) ∨
      ((∃ imm16, i = .setup imm16) ∧ KeyMade t) := by
  rcases exec_cases h with ⟨rfl, rfl⟩ | ⟨imm16, rfl, hs⟩ | ⟨u, rfl | ⟨k, rfl⟩⟩
  · exact .inr (.inl ⟨.inl rfl, rfl, rfl, rfl, rfl⟩)
  · rcases execSetup_cases hs with ⟨-, rfl⟩ | ⟨-, run, -, rfl⟩ | ⟨hL, p, q, run, hp, hq, hne, hlen, -, -, rfl⟩ |
      ⟨-, -, port, -, -, rfl⟩
    · exact .inl ⟨rfl, rfl, rfl, rfl⟩
    · exact .inr (.inl ⟨.inr ⟨imm16, rfl⟩, rfl, rfl, rfl, rfl⟩)
    · exact .inr (.inr ⟨⟨imm16, rfl⟩, keyMade_commitKey (blumKey_of_candidates hL hp hq hne hlen) rfl⟩)
    · exact .inl ⟨rfl, rfl, rfl, rfl⟩
  · exact .inl ⟨rfl, rfl, rfl, rfl⟩
  · exact .inl ⟨rfl, rfl, rfl, rfl⟩

/-- R51: an open session was open before, or the command is an XINIT that completes with an identity and a key. -/
theorem exec_session {i : Instr} {s t : State} (h : exec i s = .next t) (hx : t.xact = true) :
    s.xact = true ∨ (i = .xinit ∧ s.idlen ≠ 0 ∧ s.sk = true ∧ t.done = true) := by
  cases i with
  | nop => rcases execNop_cases h with rfl; exact .inl hx
  | jacobi => rcases execJacobi_cases h with ⟨-, rfl⟩ | ⟨-, rfl⟩ <;> exact .inl hx
  | modexp => rcases execModexp_cases h with ⟨-, rfl⟩ | ⟨-, rfl⟩ <;> exact .inl hx
  | sqrt => rcases execSqrt_cases h with ⟨-, rfl⟩ | ⟨-, -, rfl⟩ | ⟨-, -, rfl⟩ <;> exact .inl hx
  | xinit =>
    rcases execXinit_cases h with ⟨-, rfl⟩ | ⟨-, -, rfl⟩ | ⟨hid, hsk, rfl⟩
    · cases hx
    · cases hx
    · exact .inr ⟨rfl, hid, hsk, rfl⟩
  | xtry =>
    rcases execXtry_cases h with ⟨-, rfl⟩ | ⟨hs, -⟩ | ⟨hs, -⟩ | ⟨hs, -⟩ | ⟨hs, -⟩
    · exact .inl hx
    all_goals exact .inl hs
  | zeroize => rcases execZeroize_cases h with rfl; cases hx
  | setup imm16 =>
    rcases execSetup_cases h with ⟨-, rfl⟩ | ⟨-, run, -, rfl⟩ | ⟨-, p, q, run, -, -, -, -, -, -, rfl⟩ |
      ⟨-, -, port, -, -, rfl⟩
    · exact .inl hx
    · cases hx
    · cases hx
    · exact .inl hx

/-- R97: a command ends with a fault or normally, or it waits for a source that does not answer (R252). -/
theorem exec_ends {i : Instr} {s t : State} (h : exec i s = .next t) :
    (∃ k, Faulted k s t) ∨ Completed s t ∨ (s.port.silent = true ∧ ∃ port, t = { s with port := port }) := by
  rcases exec_cases h with ⟨rfl, rfl⟩ | ⟨imm16, rfl, hs⟩ | ⟨u, rfl | ⟨k, rfl⟩⟩
  · exact .inr (.inl (completed_complete rfl rfl rfl))
  · rcases execSetup_cases hs with ⟨-, rfl⟩ | ⟨-, run, -, rfl⟩ | ⟨-, p, q, run, -, -, -, -, -, -, rfl⟩ |
      ⟨-, hsilent, port, -, -, rfl⟩
    · exact .inl ⟨_, faulted_raiseFault rfl⟩
    · exact .inl ⟨_, faulted_raiseFault rfl⟩
    · exact .inr (.inl (completed_complete rfl rfl rfl))
    · exact .inr (.inr ⟨hsilent, port, rfl⟩)
  · exact .inr (.inl (completed_complete rfl rfl rfl))
  · exact .inl ⟨k, faulted_raiseFault rfl⟩

/-- R23, R24, R37: no command but ZEROIZE writes A, E or IDLEN. -/
theorem exec_operands {i : Instr} {s t : State} (h : exec i s = .next t) (hz : i ≠ .zeroize) :
    t.a = s.a ∧ t.e = s.e ∧ t.idlen = s.idlen := by
  rcases exec_cases h with ⟨rfl, -⟩ | ⟨imm16, rfl, hs⟩ | ⟨u, rfl | ⟨k, rfl⟩⟩
  · exact absurd rfl hz
  · rcases execSetup_cases hs with ⟨-, rfl⟩ | ⟨-, run, -, rfl⟩ | ⟨-, p, q, run, -, -, -, -, -, -, rfl⟩ |
      ⟨-, -, port, -, -, rfl⟩ <;> simp
  · exact ⟨rfl, rfl, rfl⟩
  · exact ⟨rfl, rfl, rfl⟩

/-- R47: only SETUP draws. -/
theorem exec_port {i : Instr} {s t : State} (h : exec i s = .next t) (hi : ∀ imm16, i ≠ .setup imm16) :
    t.port = s.port := by
  rcases exec_cases h with ⟨-, rfl⟩ | ⟨imm16, hs, -⟩ | ⟨u, rfl | ⟨k, rfl⟩⟩
  · rfl
  · exact absurd hs (hi imm16)
  · rfl
  · rfl

/-- Every command answers a next state. -/
theorem exec_next (i : Instr) (s : State) : ∃ t, exec i s = .next t := by
  cases i with
  | nop => exact ⟨_, rfl⟩
  | zeroize => exact ⟨_, rfl⟩
  | jacobi => simp only [exec, execJacobi]; split_ifs <;> exact ⟨_, rfl⟩
  | modexp => simp only [exec, execModexp]; split_ifs <;> exact ⟨_, rfl⟩
  | setup imm16 => simp only [exec, execSetup]; split_ifs <;> exact ⟨_, rfl⟩
  | sqrt => simp only [exec, execSqrt]; split_ifs <;> exact ⟨_, rfl⟩
  | xinit => simp only [exec, execXinit]; split_ifs <;> exact ⟨_, rfl⟩
  | xtry => simp only [exec, execXtry]; split_ifs <;> exact ⟨_, rfl⟩

end Sys2Proof.Machine

/-! ### What a step does to the key, the session and the life cycle -/

namespace Sys2Proof.Machine

/-- The next step is the execution of `i` (30_encoding.md R96). -/
def Executes (s : State) (i : Instr) : Prop := s.busy = true ∧ EngineNext s ∧ decode s.cmdr = .ok i

/-- A mapped register is found at the word-aligned offset `off`, and may be written in `s` (20_memory.md R62, R70). -/
structure WritableAt (s : State) (off : Offset) (reg : Reg) : Prop where
  aligned : off.toNat % 4 = 0
  mapped : regAt off.toNat = some reg
  free : s.busy = true → writableWhileBusy reg = true

/-- Everything a step can do, told by what it writes: a read, a refused access or idle time changes ACCERR and the
bus value at most; a command is executed; an illegal word faults; the reset input; a write to a mapped register. -/
theorem step_effects {s t : State} (h : step s = .next t) :
    (∃ b w, t = { s.pop with accErr := b, rdata := w }) ∨
    (∃ i, Executes s i ∧ exec i s.pop = .next t) ∨
    (s.busy = true ∧ t = raiseFault .illegalCommand s.pop) ∨
    ((∃ consumed rest, s.inputs = .rst consumed :: rest) ∧ ∃ u, t = applyReset u) ∨
    (∃ off size v rest reg, s.inputs = .write off size v :: rest ∧ WritableAt s off reg ∧
      writeReg s.pop v reg = some t) := by
  rcases step_cases h with ⟨hnext, he⟩ | ⟨-, rfl⟩ | ⟨hin, port, rfl⟩ | ⟨off, size, rest, -, rfl⟩ |
    ⟨off, size, v, rest, hin, rfl⟩
  · rcases engineTurn_cases he with ⟨-, rfl⟩ | ⟨hb, why, -, rfl⟩ | ⟨hb, i, hd, hx⟩
    · exact .inl ⟨s.accErr, s.rdata, rfl⟩
    · exact .inr (.inr (.inl ⟨hb, rfl⟩))
    · exact .inr (.inl ⟨i, ⟨hb, hnext, hd⟩, hx⟩)
  · exact .inl ⟨s.accErr, s.rdata, rfl⟩
  · exact .inr (.inr (.inr (.inl ⟨hin, _, rfl⟩)))
  · rcases busRead_cases off size s.pop with hr | ⟨-, reg, -, -, hr⟩
    · exact .inl ⟨true, 0, by rw [hr]; rfl⟩
    · exact .inl ⟨s.accErr, readReg s.pop reg, by rw [hr]; rfl⟩
  · rcases busWrite_cases off size v s.pop with hr | ⟨hacc, reg, t, hreg, hfree, hw, hr⟩
    · exact .inl ⟨true, s.rdata, by rw [hr]; rfl⟩
    · rw [hr]
      exact .inr (.inr (.inr (.inr ⟨off, size, v, rest, reg, hin, ⟨(of_decide_eq_true hacc).2, hreg, hfree⟩, hw⟩)))

/-- R50: of the host's writes, one to a limb of N drops the key and the session, and no other touches them. -/
theorem writeReg_key {s t : State} {v : Word} {reg : Reg} (h : writeReg s v reg = some t) :
    (KeyKept s t ∧ t.xact = s.xact) ∨ ((∃ i, reg = .limb .n i) ∧ KeyDropped t) := by
  rcases writeReg_cases h with ⟨-, rfl⟩ | ⟨-, rfl⟩ | ⟨-, rfl⟩ | ⟨-, rfl⟩ | ⟨-, rfl⟩ | ⟨-, rfl⟩ | ⟨i, hi, rfl⟩ |
    ⟨i, -, rfl⟩ | ⟨i, -, rfl⟩
  case inr.inr.inr.inr.inr.inr.inl => exact .inr ⟨⟨i, hi⟩, rfl, rfl, rfl, rfl⟩
  all_goals exact .inl ⟨⟨rfl, rfl, rfl, rfl⟩, rfl⟩

/-- The window of N is 0x200 to 0x3FF (R61), and it is not written while a command is in flight (R70). -/
theorem WritableAt.modulus_window {s : State} {off : Offset} {i : Nat} (h : WritableAt s off (.limb .n i)) :
    s.busy = false ∧ 0x200 ≤ off.toNat ∧ off.toNat < 0x400 := by
  obtain ⟨hoff, hpresent⟩ := offset_of_regAt h.aligned h.mapped
  have hi : i < 128 := of_decide_eq_true hpresent
  simp only [Reg.offset, BigReg.base] at hoff
  exact ⟨Bool.eq_false_iff.mpr fun hb => Bool.false_ne_true (h.free hb), by omega, by omega⟩

/-- R22, R26, R27: what a step does to SK, P, Q and N, and the only events that write them. -/
theorem step_key {s t : State} (h : step s = .next t) :
    KeyKept s t ∨
    (KeyDropped t ∧
      ((∃ consumed rest, s.inputs = .rst consumed :: rest) ∨
       (∃ off size v rest, s.inputs = .write off size v :: rest ∧ s.busy = false ∧ 0x200 ≤ off.toNat ∧
         off.toNat < 0x400) ∨
       Executes s .zeroize ∨ ∃ imm16, Executes s (.setup imm16))) ∨
    (KeyMade t ∧ ∃ imm16, Executes s (.setup imm16)) := by
  rcases step_effects h with ⟨b, w, rfl⟩ | ⟨i, hi, hx⟩ | ⟨-, rfl⟩ | ⟨hin, u, rfl⟩ |
    ⟨off, size, v, rest, reg, hin, hat, hw⟩
  · exact .inl ⟨rfl, rfl, rfl, rfl⟩
  · rcases exec_key hx with hk | ⟨rfl | ⟨imm16, rfl⟩, hk⟩ | ⟨⟨imm16, rfl⟩, hk⟩
    · exact .inl ⟨hk.sk, hk.p, hk.q, hk.n⟩
    · exact .inr (.inl ⟨hk, .inr (.inr (.inl hi))⟩)
    · exact .inr (.inl ⟨hk, .inr (.inr (.inr ⟨imm16, hi⟩))⟩)
    · exact .inr (.inr ⟨hk, imm16, hi⟩)
  · exact .inl ⟨rfl, rfl, rfl, rfl⟩
  · exact .inr (.inl ⟨⟨rfl, rfl, rfl, rfl⟩, .inl hin⟩)
  · rcases writeReg_key hw with ⟨hk, -⟩ | ⟨⟨i, rfl⟩, hk⟩
    · exact .inl ⟨hk.sk, hk.p, hk.q, hk.n⟩
    · exact .inr (.inl ⟨hk, .inr (.inl ⟨off, size, v, rest, hin, hat.modulus_window⟩)⟩)

/-- R51: a session open after a step was open before, or the step is an XINIT with an identity and a key. -/
theorem step_session {s t : State} (h : step s = .next t) (hx : t.xact = true) :
    s.xact = true ∨ (Executes s .xinit ∧ s.idlen ≠ 0 ∧ s.sk = true ∧ t.done = true) := by
  rcases step_effects h with ⟨b, w, rfl⟩ | ⟨i, hi, he⟩ | ⟨-, rfl⟩ | ⟨-, u, rfl⟩ | ⟨off, size, v, rest, reg, -, -, hw⟩
  · exact .inl hx
  · rcases exec_session he hx with hs | ⟨rfl, hxinit⟩
    · exact .inl hs
    · exact .inr ⟨hi, hxinit⟩
  · exact .inl hx
  · cases hx
  · rcases writeReg_key hw with ⟨-, hk⟩ | ⟨-, hk⟩
    · exact .inl (hk.symm.trans hx)
    · exact absurd (hk.xact.symm.trans hx) Bool.false_ne_true

/-! ### The invariant in two parts -/

/-- The part of the invariant on the key and the session (10_state.md R27, 43_sqrt_extract.md R155). -/
structure KeyInvariant (s : State) : Prop where
  key : s.sk = true → BlumKey s.p.toNat s.q.toNat s.n.toNat
  noKey : s.sk = false → s.p = 0 ∧ s.q = 0
  session : s.xact = true → s.sk = true

/-- The part of the invariant on the life cycle and the fault fields (10_state.md R33, R34, 60_exceptions.md R201,
R202), on the values of BUSY, DONE, FLT, CODE and SUB. -/
structure LifeCycle (busy done flt : Bool) (code sub : Byte) : Prop where
  busyAlone : busy = true → done = false ∧ flt = false
  doneAlone : done = true → flt = false
  faultCode : flt = true → code ≠ 0
  cleanCode : busy = true ∨ done = true → code = 0 ∧ sub = 0
  legalFault : legalFaultFields code sub

theorem invariant_iff (s : State) :
    Invariant s ↔ KeyInvariant s ∧ LifeCycle s.busy s.done s.flt s.code s.sub :=
  ⟨fun h => ⟨⟨h.key, h.noKey, h.session⟩, h.lifeCycle.1, h.lifeCycle.2, h.faultCode, h.cleanCode, h.legalFault⟩,
    fun ⟨hk, hl⟩ => ⟨hk.key, hk.noKey, hk.session, ⟨hl.busyAlone, hl.doneAlone⟩, hl.faultCode, hl.cleanCode,
      hl.legalFault⟩⟩

/-- With no fault and no code there is nothing to keep apart but BUSY and DONE. -/
theorem lifeCycle_clean {busy done : Bool} (h : busy = true → done = false) : LifeCycle busy done false 0 0 :=
  ⟨fun hb => ⟨h hb, rfl⟩, fun _ => rfl, nofun, fun _ => ⟨rfl, rfl⟩, .inl ⟨rfl, rfl⟩⟩

theorem CommandFault.code_ne_zero (k : CommandFault) : k.code ≠ 0 := by
  cases k <;> decide

theorem lifeCycle_fault (k : CommandFault) : LifeCycle false false true k.code k.sub :=
  ⟨nofun, nofun, fun _ => k.code_ne_zero, fun hbd => absurd hbd (by decide), .inr ⟨k, rfl, rfl⟩⟩

/-- R214: an acknowledgement clears DONE or FLT and sets neither. -/
theorem LifeCycle.clearEnds {busy done flt : Bool} {code sub : Byte} (h : LifeCycle busy done flt code sub)
    (keepDone keepFlt : Bool) : LifeCycle busy (done && keepDone) (flt && keepFlt) code sub where
  busyAlone hb := by simp [h.busyAlone hb]
  doneAlone hd := by simp [h.doneAlone (Bool.and_eq_true_iff.mp hd).1]
  faultCode hf := h.faultCode (Bool.and_eq_true_iff.mp hf).1
  cleanCode hbd := h.cleanCode (hbd.imp_right fun hd => (Bool.and_eq_true_iff.mp hd).1)
  legalFault := h.legalFault

/-- R33, R34: a host write keeps the life cycle: acceptance starts it anew, an acknowledgement clears. -/
theorem writeReg_lifeCycle {s t : State} {v : Word} {reg : Reg} (h : writeReg s v reg = some t)
    (hl : LifeCycle s.busy s.done s.flt s.code s.sub) : LifeCycle t.busy t.done t.flt t.code t.sub := by
  rcases writeReg_cases h with ⟨-, rfl⟩ | ⟨-, rfl⟩ | ⟨-, rfl⟩ | ⟨-, rfl⟩ | ⟨-, rfl⟩ | ⟨-, rfl⟩ | ⟨i, -, rfl⟩ |
    ⟨i, -, rfl⟩ | ⟨i, -, rfl⟩
  case inl => exact lifeCycle_clean fun _ => rfl
  case inr.inl => exact hl.clearEnds _ _
  all_goals exact hl

/-- R202, R203: the end of a command in flight keeps the life cycle. -/
theorem exec_lifeCycle {i : Instr} {s t : State} (h : exec i s = .next t) (hb : s.busy = true)
    (hl : LifeCycle s.busy s.done s.flt s.code s.sub) : LifeCycle t.busy t.done t.flt t.code t.sub := by
  obtain ⟨hdone, hflt⟩ := hl.busyAlone hb
  obtain ⟨hcode, hsub⟩ := hl.cleanCode (.inl hb)
  rcases exec_ends h with ⟨k, hf⟩ | hc | ⟨-, port, rfl⟩
  · rw [hf.busy, hf.done, hdone, hf.flt, hf.code, hf.sub]
    exact lifeCycle_fault k
  · rw [hc.busy, hc.done, hc.flt, hflt, hc.code, hcode, hc.sub, hsub]
    exact lifeCycle_clean nofun
  · exact hl

theorem step_lifeCycle {s t : State} (h : step s = .next t) (hl : LifeCycle s.busy s.done s.flt s.code s.sub) :
    LifeCycle t.busy t.done t.flt t.code t.sub := by
  rcases step_effects h with ⟨b, w, rfl⟩ | ⟨i, ⟨hb, -, -⟩, hx⟩ | ⟨hb, rfl⟩ | ⟨-, u, rfl⟩ |
    ⟨off, size, v, rest, reg, -, -, hw⟩
  · exact hl
  · exact exec_lifeCycle hx hb hl
  · have hdone : s.pop.done = false := (hl.busyAlone hb).1
    simp only [raiseFault_busy, raiseFault_done, raiseFault_flt, raiseFault_code, raiseFault_sub, hdone]
    exact lifeCycle_fault .illegalCommand
  · exact lifeCycle_clean nofun
  · exact writeReg_lifeCycle hw hl

theorem step_keyInvariant {s t : State} (h : step s = .next t) (hk : KeyInvariant s) : KeyInvariant t := by
  rcases step_key h with hkept | ⟨hdropped, -⟩ | ⟨hmade, -⟩
  · refine ⟨?_, ?_, fun hx => ?_⟩
    · rw [hkept.sk, hkept.p, hkept.q, hkept.n]; exact hk.key
    · rw [hkept.sk, hkept.p, hkept.q]; exact hk.noKey
    · rw [hkept.sk]
      rcases step_session h hx with hs | ⟨-, -, hsk, -⟩
      · exact hk.session hs
      · exact hsk
  · exact ⟨fun hsk => absurd (hdropped.sk.symm.trans hsk) Bool.false_ne_true, fun _ => ⟨hdropped.p, hdropped.q⟩,
      fun hx => absurd (hdropped.xact.symm.trans hx) Bool.false_ne_true⟩
  · exact ⟨fun _ => hmade.key, fun hsk => absurd (hsk.symm.trans hmade.sk) Bool.false_ne_true, fun _ => hmade.sk⟩

theorem step_invariant {s t : State} (hs : Invariant s) (h : step s = .next t) : Invariant t := by
  obtain ⟨hk, hl⟩ := (invariant_iff s).mp hs
  exact (invariant_iff t).mpr ⟨step_keyInvariant h hk, step_lifeCycle h hl⟩

/-- Settles O38: the key and session part by `step_key` and `step_session`, the life-cycle part by `step_lifeCycle`. -/
theorem everyStepKeepsTheInvariant : Obligations.EveryStepKeepsTheInvariant :=
  fun _ _ hs h => step_invariant hs h

/-- The key and the fields of the life cycle of reset do not depend on what the agents outside the block hold. -/
theorem invariant_applyReset (s : State) : Invariant (applyReset s) :=
  (invariant_iff _).mpr ⟨⟨nofun, fun _ => ⟨rfl, rfl⟩, nofun⟩, lifeCycle_clean nofun⟩

/-- Settles O37: `applyReset` of the reset state is the reset state. -/
theorem resetHasTheInvariant : Obligations.ResetHasTheInvariant := invariant_applyReset State.reset

/-- Every step answers a next state (60_exceptions.md R214). -/
theorem step_next (s : State) : ∃ t, step s = .next t := by
  have hengine : ∀ u : State, ∃ t, engineTurn u = .next t := by
    intro u
    unfold engineTurn
    split_ifs
    · split
      · exact exec_next _ _
      · exact ⟨_, rfl⟩
    · exact ⟨_, rfl⟩
  unfold step advance
  split
  · exact hengine s
  · rename_i i rest _
    cases i with
    | engine => exact hengine _
    | _ => exact ⟨_, rfl⟩

/-- From a state with the invariant every run is safe. -/
theorem safeRun_of_invariant : ∀ (k : Nat) {s : State}, Invariant s → SafeRun k s := by
  intro k
  induction k with
  | zero => intro s hs; exact ⟨s, rfl, hs⟩
  | succ k ih =>
    intro s hs
    obtain ⟨t, ht⟩ := step_next s
    obtain ⟨u, hrun, hu⟩ := ih (step_invariant hs ht)
    exact ⟨u, (core_run_succ ht).trans hrun, hu⟩

/-- Settles O39, by induction on the number of steps with `step_invariant`. -/
theorem everyRunFromResetIsSafe : Obligations.EveryRunFromResetIsSafe := fun k events port =>
  safeRun_of_invariant k (invariant_applyReset { State.reset with inputs := events, port := port })

/-- Settles O42: the three cases of `step_key`. -/
theorem onlySetupWritesTheSecrets : Obligations.OnlySetupWritesTheSecrets := by
  intro s t h
  rcases step_key h with hkept | ⟨hdropped, -⟩ | ⟨hmade, imm16, hbusy, hnext, hdec⟩
  · exact .inl ⟨hkept.p, hkept.q⟩
  · exact .inr (.inl ⟨hdropped.p, hdropped.q⟩)
  · exact .inr (.inr ⟨hbusy, hnext, ⟨imm16, hdec⟩, hmade.sk, hmade.done⟩)

/-- Settles O43: the events `step_key` names are the only ones that write N. -/
theorem modulusChangesOnlyByTheseEvents : Obligations.ModulusChangesOnlyByTheseEvents := by
  intro s t h hn
  rcases step_key h with hkept | ⟨hdropped, hevent⟩ | ⟨-, imm16, hbusy, hnext, hdec⟩
  · exact absurd hkept.n hn
  · rcases hevent with hrst | ⟨off, size, v, rest, hin, hbusy, hlo, hhi⟩ | ⟨hbusy, hnext, hdec⟩ |
      ⟨imm16, hbusy, hnext, hdec⟩
    · exact .inl hrst
    · exact .inr (.inl ⟨off, size, v, rest, hin, hbusy, hlo, hhi, hdropped.sk, hdropped.p, hdropped.q, hdropped.xact⟩)
    · exact .inr (.inr ⟨hbusy, hnext, .inl hdec⟩)
    · exact .inr (.inr ⟨hbusy, hnext, .inr ⟨imm16, hdec⟩⟩)
  · exact .inr (.inr ⟨hbusy, hnext, .inr ⟨imm16, hdec⟩⟩)

/-- Settles O44: `step_session`, where no session was open. -/
theorem onlyXinitOpensASession : Obligations.OnlyXinitOpensASession := by
  intro s t h hclosed hopen
  rcases step_session h hopen with hs | ⟨⟨hbusy, hnext, hdec⟩, hid, hsk, hdone⟩
  · exact absurd (hclosed.symm.trans hs) Bool.false_ne_true
  · exact ⟨hbusy, hnext, hdec, hid, hsk, hdone⟩

end Sys2Proof.Machine

/-! ### Transactions at a register's offset, and what they read -/

namespace Sys2Proof.Machine

/-- R30, R66: every register stands at a multiple of 4 inside the register space. -/
theorem offset_range {reg : Reg} (h : reg.present = true) : reg.offset < 4096 ∧ reg.offset % 4 = 0 := by
  cases reg with
  | limb x i =>
    have hi : i < 128 := of_decide_eq_true h
    cases x <;> simp only [Reg.offset, BigReg.base] <;> omega
  | _ => simp [Reg.offset]

theorem busOffset_toNat {reg : Reg} (h : reg.present = true) : (busOffset reg).toNat = reg.offset := by
  rw [busOffset, BitVec.toNat_ofNat, Nat.mod_eq_of_lt (offset_range h).1]

theorem wordAccess_busOffset {reg : Reg} (h : reg.present = true) : wordAccess (busOffset reg) 4 = true :=
  decide_eq_true ⟨rfl, by rw [busOffset_toNat h]; exact (offset_range h).2⟩

theorem regAt_busOffset {reg : Reg} (h : reg.present = true) : regAt (busOffset reg).toNat = some reg := by
  rw [busOffset_toNat h, regAt_offset h]

/-- R63: a word read at a register's offset, where the register is readable. -/
theorem busRead_busOffset {reg : Reg} {s : State} (hp : reg.present = true)
    (hfree : s.busy = true → readableWhileBusy reg = true) : busRead (busOffset reg) 4 s = (readReg s reg, s) := by
  unfold busRead
  rw [wordAccess_busOffset hp, regAt_busOffset hp]
  cases hb : s.busy with
  | false => rfl
  | true => simp [hfree hb]

/-- R63: with no command in flight every register is readable. -/
theorem busRead_idle {reg : Reg} {s : State} (hp : reg.present = true) (hidle : s.busy = false) :
    (busRead (busOffset reg) 4 s).1 = readReg s reg := by
  rw [busRead_busOffset hp fun hb => absurd (hidle.symm.trans hb) Bool.false_ne_true]

/-- R64: a word written at a register's offset, where the register is writable. -/
theorem busWrite_busOffset {reg : Reg} {s t : State} {v : Word} (hp : reg.present = true)
    (hfree : s.busy = true → writableWhileBusy reg = true) (hw : writeReg s v reg = some t) :
    busWrite (busOffset reg) 4 v s = t := by
  unfold busWrite
  rw [wordAccess_busOffset hp, regAt_busOffset hp]
  cases hb : s.busy with
  | false => simp [hw]
  | true => simp [hfree hb, hw]

/-- R34: FAULT is SUB above CODE. -/
theorem faultWord_toNat (s : State) : s.faultWord.toNat = 256 * s.sub.toNat + s.code.toNat := by
  have hsub := s.sub.isLt
  have hcode := s.code.isLt
  rw [State.faultWord, BitVec.toNat_setWidth, BitVec.toNat_append, ← Nat.shiftLeft_add_eq_or_of_lt hcode,
    Nat.shiftLeft_eq]
  omega

theorem ctrlWord_toNat (s : State) : s.ctrlWord.toNat = s.ie.toNat := by
  unfold State.ctrlWord
  cases s.ie <;> rfl

/-- R36: JRES is the symbol as a signed word. -/
theorem JacobiValue.word_toInt (t : JacobiValue) : t.word.toInt = t.toInt := by
  cases t <;> rfl

/-- R41: LEN is the length of N, which fits the word. -/
theorem lenWord_toNat (s : State) : s.lenWord.toNat = bitlen s.n.toNat := by
  have hfit : bitlen s.n.toNat ≤ Config.W := bitlen_le_iff.mpr s.n.isLt
  have hW : Config.W = 4096 := rfl
  rw [State.lenWord, BitVec.toNat_ofNat, Nat.mod_eq_of_lt (by omega)]

theorem lenWord_of_modulus_zero {s : State} (hn : s.n = 0) : s.lenWord = 0 := by
  simp [State.lenWord, hn, bitlen]

/-- R33: bits 7 down to 0 of STATUS. -/
theorem statusWord_bits (s : State) :
    s.statusWord.getLsbD 0 = s.busy ∧ s.statusWord.getLsbD 1 = s.done ∧ s.statusWord.getLsbD 2 = s.flt ∧
    s.statusWord.getLsbD 3 = s.sk ∧ s.statusWord.getLsbD 4 = s.acc ∧ s.statusWord.getLsbD 5 = s.neg ∧
    s.statusWord.getLsbD 6 = s.xact ∧ s.statusWord.getLsbD 7 = s.accErr := by
  simp only [State.statusWord, BitVec.getLsbD_setWidth, BitVec.getLsbD_append, BitVec.getLsbD_ofBool]
  simp

/-- R33: bits 31:8 of STATUS read as 0. -/
theorem statusWord_high (s : State) {k : Nat} (hk : 8 ≤ k) : s.statusWord.getLsbD k = false := by
  rw [State.statusWord, BitVec.getLsbD_setWidth, BitVec.getLsbD_of_ge _ _ hk, Bool.and_false]

/-- Settles O49, by the bits of the word STATUS reads as. -/
theorem statusBitsAndTheirClearing : Obligations.StatusBitsAndTheirClearing := by
  intro s v
  have hread : busRead 0x008 4 s = (s.statusWord, s) := busRead_busOffset (reg := .status) rfl fun _ => rfl
  obtain ⟨h0, h1, h2, h3, h4, h5, h6, h7⟩ := statusWord_bits s
  refine ⟨?_, busWrite_busOffset (reg := .status) rfl (fun _ => rfl) rfl⟩
  rw [hread]
  exact ⟨h0, h1, h2, h3, h4, h5, h6, h7, fun k hk => statusWord_high s hk⟩

/-- Settles O48: each offset finds its register, and `readReg` gives the word whose value the lemmas above state. -/
theorem controlRegistersReadTheirFields : Obligations.ControlRegistersReadTheirFields := by
  intro s hidle
  have hread : ∀ reg : Reg, reg.present = true → (busRead (busOffset reg) 4 s).1 = readReg s reg :=
    fun _ hp => busRead_idle hp hidle
  have hlen := hread .len rfl
  refine ⟨hread .id rfl, hread .cmd rfl, ?_, ?_, ?_, hread .idlen rfl, hread .iter rfl, hread .xcap rfl,
    hread .scap rfl, hread .draws rfl, fun hn => hlen.trans (lenWord_of_modulus_zero hn), fun hn => ?_⟩
  · exact (congrArg BitVec.toNat (hread .fault rfl)).trans (faultWord_toNat s)
  · exact (congrArg BitVec.toNat (hread .ctrl rfl)).trans (ctrlWord_toNat s)
  · exact (congrArg BitVec.toInt (hread .jres rfl)).trans s.j.word_toInt
  · have hval : (busRead 0x028 4 s).1.toNat = bitlen s.n.toNat :=
      (congrArg BitVec.toNat hlen).trans (lenWord_toNat s)
    rw [hval]
    exact hasLength_bitlen fun h0 => hn (BitVec.eq_of_toNat_eq (h0.trans BitVec.toNat_zero.symm))

/-! ### P and Q are hidden (10_state.md R26) -/

/-- No register of the map shows P or Q. -/
theorem readReg_secrets (s : State) (p q : Big) (reg : Reg) : readReg { s with p := p, q := q } reg = readReg s reg := by
  cases reg with
  | limb x i => cases x <;> rfl
  | _ => rfl

theorem busRead_secrets (off : Offset) (size : Nat) (s : State) (p q : Big) :
    (busRead off size { s with p := p, q := q }).1 = (busRead off size s).1 := by
  unfold busRead
  split_ifs
  · rfl
  · cases regAt off.toNat with
    | none => rfl
    | some reg =>
      simp only [readReg_secrets]
      split_ifs <;> rfl

/-- Settles O40: the interrupt line reads no big-number register, and `busRead_secrets`. -/
theorem hostCannotReadTheSecrets : Obligations.HostCannotReadTheSecrets := by
  intro s t h
  rw [DifferOnlyInSecrets] at h
  rw [h]
  exact ⟨rfl, fun off size => (busRead_secrets off size s t.p t.q).symm⟩

/-- SETUP searches, and then ends, without reading P and Q: two of its ends overwrite them. -/
theorem endSetup_secrets (search : Attempt (Nat × Nat)) (s : State) (p q : Big) :
    DifferOnlyInSecrets (endSetup search s) (endSetup search { s with p := p, q := q }) := by
  cases search <;> rfl

/-- Two outcomes that answer next states which differ at most in P and Q. -/
theorem next_secrets {s' t' u : State} (hs : (Host.Outcome.next s' : Result) = .next u)
    (h : DifferOnlyInSecrets s' t') :
    ∃ t, (Host.Outcome.next t' : Result) = .next t ∧ DifferOnlyInSecrets u t := by
  cases hs
  exact ⟨t', rfl, h⟩

/-- A command that forms no root does the same whatever P and Q hold. -/
theorem exec_secrets {i : Instr} {s u : State} (p q : Big) (hsqrt : i ≠ .sqrt) (hxtry : i ≠ .xtry)
    (h : exec i s = .next u) : ∃ t, exec i { s with p := p, q := q } = .next t ∧ DifferOnlyInSecrets u t := by
  cases i with
  | nop => exact next_secrets h rfl
  | zeroize => exact next_secrets h rfl
  | jacobi =>
    simp only [exec, execJacobi] at h ⊢
    split_ifs at h ⊢ <;> exact next_secrets h rfl
  | modexp =>
    simp only [exec, execModexp] at h ⊢
    split_ifs at h ⊢ <;> exact next_secrets h rfl
  | xinit =>
    simp only [exec, execXinit] at h ⊢
    split_ifs at h ⊢ <;> exact next_secrets h rfl
  | setup imm16 =>
    simp only [exec, execSetup] at h ⊢
    split_ifs at h ⊢
    · exact next_secrets h rfl
    · exact next_secrets h (endSetup_secrets _ s p q)
  | sqrt => exact absurd rfl hsqrt
  | xtry => exact absurd rfl hxtry

/-- Settles O41, by `exec_secrets`. -/
theorem onlyRootCommandsReadTheSecrets : Obligations.OnlyRootCommandsReadTheSecrets := by
  intro i s t s' hsqrt hxtry hst h
  rw [DifferOnlyInSecrets] at hst
  rw [hst]
  exact exec_secrets t.p t.q hsqrt hxtry h

end Sys2Proof.Machine

/-! ### The operands, the result, the session flag and the reset state -/

namespace Sys2Proof.Machine

/-- Settles O31: `exec_keeps` for the controls, `exec_operands` and `exec_port` for what ZEROIZE and SETUP write. -/
theorem commandsLeaveOperandsAndControls : Obligations.CommandsLeaveOperandsAndControls := by
  intro i s t h
  obtain ⟨hxcap, hscap, hie, haccErr, hcmdr, hinputs, hrdata⟩ := exec_keeps h
  exact ⟨exec_operands h, hxcap, hscap, hie, haccErr, hcmdr, hinputs, hrdata, exec_port h⟩

/-- R25: a power modulo N is below N in its register. -/
theorem big_modexp_lt {n : Big} (a e : Nat) (hn : 0 < n.toNat) : (big (modexp a e n.toNat)).toNat < n.toNat := by
  have hlt := modexp_lt a e hn
  rwa [big_toNat (hlt.trans n.isLt)]

/-- R25, R123: a root is below N in its register. -/
theorem big_root_lt {s : State} (hn : 0 < s.n.toNat) : (big s.root).toNat < s.n.toNat := big_modexp_lt _ _ hn

theorem zero_lt_modulus {n : Big} (hn : 0 < n.toNat) : (0 : Big).toNat < n.toNat :=
  BitVec.toNat_zero.trans_lt hn

/-- Settles O32: each end leaves in R 0, a power modulo N or a root. -/
theorem resultStaysBelowTheModulus : Obligations.ResultStaysBelowTheModulus := by
  rintro i s t (rfl | rfl | rfl) hn h
  · rcases execModexp_cases h with ⟨-, rfl⟩ | ⟨-, rfl⟩
    · exact zero_lt_modulus hn
    · exact big_modexp_lt _ _ hn
  · rcases execSqrt_cases h with ⟨-, rfl⟩ | ⟨-, -, rfl⟩ | ⟨-, -, rfl⟩
    · exact zero_lt_modulus hn
    · exact zero_lt_modulus hn
    · exact big_root_lt hn
  · rcases execXtry_cases h with ⟨-, rfl⟩ | ⟨-, -, rfl⟩ | ⟨-, -, -, rfl⟩ | ⟨-, -, -, -, rfl⟩ | ⟨-, -, -, -, rfl⟩
    · exact zero_lt_modulus hn
    · exact zero_lt_modulus hn
    · exact zero_lt_modulus hn
    · exact zero_lt_modulus hn
    · exact big_root_lt hn

/-- R51, R158, R159: XTRY leaves the session open only below the cap and on a symbol that is not +1. -/
theorem execXtry_xact {s t : State} (h : execXtry s = .next t) (hodd : s.xact = true → s.n.toNat % 2 = 1) :
    t.xact = (s.xact && decide (s.iter < s.xcap) && decide (jacobiSym (s.a.toNat : ℤ) s.n.toNat ≠ 1)) := by
  rcases execXtry_cases h with ⟨hx, rfl⟩ | ⟨hx, hcap, rfl⟩ | ⟨hx, hlt, hj, rfl⟩ | ⟨hx, hlt, hj, -, rfl⟩ |
    ⟨hx, hlt, hj, -, rfl⟩
  · simp [hx]
  · simp [BitVec.not_lt.mpr hcap]
  · rw [Ne, jacobi_eq_plusOne_iff _ (hodd hx)] at hj
    simp [hx, hlt, hj]
  · rw [jacobi_eq_plusOne_iff _ (hodd hx)] at hj
    simp [hj]
  · rw [jacobi_eq_plusOne_iff _ (hodd hx)] at hj
    simp [hj]

/-- R51, R133: SETUP ends the session unless its length is refused. -/
theorem execSetup_xact {imm16 : Nat} {s t : State} (h : execSetup imm16 s = .next t) (hs : DrawsAnswered s) :
    t.xact = (s.xact && badLength (requestedLength imm16)) := by
  rcases execSetup_cases h with ⟨hL, rfl⟩ | ⟨hL, run, -, rfl⟩ | ⟨hL, p, q, run, -, -, -, -, -, -, rfl⟩ |
    ⟨-, hsilent, -⟩
  · simp [hL]
  · simp [hL]
  · simp [hL]
  · exact absurd (hs.symm.trans hsilent) Bool.false_ne_true

/-- R51, R156: XINIT opens a session exactly with an identity and a key. -/
theorem execXinit_xact {s t : State} (h : execXinit s = .next t) : t.xact = (s.sk && decide (s.idlen ≠ 0)) := by
  rcases execXinit_cases h with ⟨hid, rfl⟩ | ⟨-, hsk, rfl⟩ | ⟨hid, hsk, rfl⟩
  · simp [hid]
  · simp [hsk]
  · simpa [hsk] using hid

/-- R50: a write to a limb of N ends the session. -/
theorem busWrite_modulus_xact {s : State} {i : Nat} (v : Word) (hidle : s.busy = false) (hi : i < 128) :
    (busWrite (BitVec.ofNat 12 (0x200 + 4 * i)) 4 v s).xact = false := by
  have hwrite : busWrite (busOffset (.limb .n i)) 4 v s = dropKey { s with n := setLimb s.n i v } :=
    busWrite_busOffset (decide_eq_true hi) (fun hb => absurd (hidle.symm.trans hb) Bool.false_ne_true) rfl
  exact congrArg State.xact hwrite

/-- Settles O36, command by command; the reset input and the write to N after it. -/
theorem sessionFlagAfterEachEvent : Obligations.SessionFlagAfterEachEvent := by
  refine ⟨fun i s t hs hodd h => ?_, applyReset_xact, fun s i v hidle hi => busWrite_modulus_xact v hidle hi⟩
  cases i with
  | nop => rcases execNop_cases h with rfl; rfl
  | jacobi => rcases execJacobi_cases h with ⟨-, rfl⟩ | ⟨-, rfl⟩ <;> rfl
  | modexp => rcases execModexp_cases h with ⟨-, rfl⟩ | ⟨-, rfl⟩ <;> rfl
  | sqrt => rcases execSqrt_cases h with ⟨-, rfl⟩ | ⟨-, -, rfl⟩ | ⟨-, -, rfl⟩ <;> rfl
  | setup imm16 => exact execSetup_xact h hs
  | xinit => exact execXinit_xact h
  | xtry => exact execXtry_xact h (hodd rfl)
  | zeroize => rcases execZeroize_cases h with rfl; rfl

theorem exec_jacobi_refused {s : State} (h : badModulus s.n.toNat = true) :
    exec .jacobi s = .next (raiseFault .badModulus (setJ .zero s)) := if_pos h

theorem exec_modexp_refused {s : State} (h : badModulus s.n.toNat = true) :
    exec .modexp s = .next (raiseFault .badModulus (setR 0 s)) := if_pos h

theorem exec_sqrt_noKey {s : State} (h : s.sk = false) : exec .sqrt s = .next (raiseFault .noKey (dropRoot s)) :=
  if_pos h

/-- Settles O1: the fields are those of the definition; the modulus 0 is refused, and no key is held. -/
theorem resetGivesEveryFieldItsValue : Obligations.ResetGivesEveryFieldItsValue := by
  have hzero : State.reset.n = 0 := rfl
  have hmodulus : badModulus State.reset.n.toNat = true := by simp [hzero, badModulus]
  refine ⟨⟨rfl, rfl, rfl, rfl, rfl, rfl⟩, ⟨rfl, rfl, rfl, rfl, rfl⟩, ⟨rfl, rfl, rfl, rfl, rfl⟩,
    ⟨rfl, rfl, rfl, rfl, rfl, rfl⟩, ⟨rfl, rfl⟩,
    ⟨busRead_idle (reg := .id) rfl rfl, (busRead_idle (reg := .len) rfl rfl).trans (lenWord_of_modulus_zero hzero)⟩,
    ?_, ?_, ?_⟩
  · exact exec_jacobi_refused hmodulus
  · exact exec_modexp_refused hmodulus
  · exact exec_sqrt_noKey rfl

end Sys2Proof.Machine

/-! ### Refused accesses (20_memory.md R61, R68 to R70) -/

namespace Sys2Proof.Machine

/-- R61: the register found at a multiple of 4 stands there. -/
theorem busOffset_of_regAt {off : Offset} {reg : Reg} (h4 : off.toNat % 4 = 0) (h : regAt off.toNat = some reg) :
    reg.present = true ∧ busOffset reg = off := by
  obtain ⟨hoff, hpresent⟩ := offset_of_regAt h4 h
  exact ⟨hpresent, BitVec.eq_of_toNat_eq ((busOffset_toNat hpresent).trans hoff)⟩

/-- R30, R61: the registers stand below 0x030 and in the four windows. -/
theorem busOffset_mapped {reg : Reg} (h : reg.present = true) :
    (busOffset reg).toNat < 0x030 ∨ (0x200 ≤ (busOffset reg).toNat ∧ (busOffset reg).toNat < 0xA00) := by
  rw [busOffset_toNat h]
  cases reg with
  | limb x i =>
    have hi : i < 128 := of_decide_eq_true h
    cases x <;> simp only [Reg.offset, BigReg.base] <;> omega
  | _ => simp [Reg.offset]

/-- R61: every multiple of 4 below 0x030 and in the four windows holds a register. -/
theorem exists_reg_of_mapped {off : Offset} (h4 : off.toNat % 4 = 0)
    (h : off.toNat < 0x030 ∨ (0x200 ≤ off.toNat ∧ off.toNat < 0xA00)) :
    ∃ reg : Reg, reg.present = true ∧ busOffset reg = off := by
  have hsome : ∃ reg, regAt off.toNat = some reg := by
    rcases h with hlow | ⟨hge, hlt⟩
    · have hword : off.toNat / 4 < 12 := by omega
      rw [regAt, if_pos (by omega)]
      interval_cases off.toNat / 4 <;> exact ⟨_, rfl⟩
    · rw [regAt, if_neg (by omega)]
      split_ifs <;> exact ⟨_, rfl⟩
  obtain ⟨reg, hreg⟩ := hsome
  exact ⟨reg, busOffset_of_regAt h4 hreg⟩

/-- R63: a read is refused where no register stands that may be read now. -/
theorem busRead_refused {off : Offset} {size : Nat} {s : State}
    (h : ∀ reg : Reg, reg.present = true → busOffset reg = off →
      ¬(s.busy = true → readableWhileBusy reg = true)) : busRead off size s = (0, refuseAccess s) := by
  rcases busRead_cases off size s with hr | ⟨hacc, reg, hreg, hfree, -⟩
  · exact hr
  · obtain ⟨hpresent, hoff⟩ := busOffset_of_regAt (of_decide_eq_true hacc).2 hreg
    exact absurd hfree (h reg hpresent hoff)

/-- R64: a write is refused where no register stands that may be written now. -/
theorem busWrite_refused {off : Offset} {size : Nat} {v : Word} {s : State}
    (h : ∀ (reg : Reg) (t : State), reg.present = true → busOffset reg = off → writeReg s v reg = some t →
      ¬(s.busy = true → writableWhileBusy reg = true)) : busWrite off size v s = refuseAccess s := by
  rcases busWrite_cases off size v s with hr | ⟨hacc, reg, t, hreg, hfree, hw, -⟩
  · exact hr
  · obtain ⟨hpresent, hoff⟩ := busOffset_of_regAt (of_decide_eq_true hacc).2 hreg
    exact absurd hfree (h reg t hpresent hoff hw)

/-- R63, R72: with no command in flight a read at a register's offset returns it and changes nothing. -/
theorem busRead_idle_eq {reg : Reg} {s : State} (hp : reg.present = true) (hidle : s.busy = false) :
    busRead (busOffset reg) 4 s = (readReg s reg, s) :=
  busRead_busOffset hp fun hb => absurd (hidle.symm.trans hb) Bool.false_ne_true

/-- R64: with no command in flight a word written at a register's offset is what `writeReg` says. -/
theorem busWrite_idle {reg : Reg} {s t : State} {v : Word} (hp : reg.present = true) (hidle : s.busy = false)
    (hw : writeReg s v reg = some t) : busWrite (busOffset reg) 4 v s = t :=
  busWrite_busOffset hp (fun hb => absurd (hidle.symm.trans hb) Bool.false_ne_true) hw

/-- R61, R69: where the writable registers stand. -/
theorem busOffset_of_writeReg {s t : State} {v : Word} {reg : Reg} (hp : reg.present = true)
    (h : writeReg s v reg = some t) :
    (busOffset reg).toNat ∈ [0x004, 0x008, 0x010, 0x018, 0x020, 0x024] ∨
      (0x200 ≤ (busOffset reg).toNat ∧ (busOffset reg).toNat < 0x800) := by
  rw [busOffset_toNat hp]
  cases reg with
  | limb x i =>
    have hi : i < 128 := of_decide_eq_true hp
    cases x with
    | r => cases h
    | _ => simp only [Reg.offset, BigReg.base]; omega
  | cmd | status | ctrl | idlen | xcap | scap => simp [Reg.offset]
  | _ => cases h

/-- R70: the offsets that are readable while a command is in flight. -/
theorem busOffset_of_readableWhileBusy {reg : Reg} (h : readableWhileBusy reg = true) :
    busOffset reg = 0x000 ∨ busOffset reg = 0x008 ∨ busOffset reg = 0x010 := by
  cases reg with
  | id => exact .inl rfl
  | status => exact .inr (.inl rfl)
  | ctrl => exact .inr (.inr rfl)
  | _ => cases h

/-- R70: the offsets that are writable while a command is in flight. -/
theorem busOffset_of_writableWhileBusy {reg : Reg} (h : writableWhileBusy reg = true) :
    busOffset reg = 0x008 ∨ busOffset reg = 0x010 := by
  cases reg with
  | status => exact .inl rfl
  | ctrl => exact .inr rfl
  | _ => cases h

/-- Settles O46: the map has no register at the unmapped offsets and no writable one at the read-only offsets. -/
theorem unmappedAndReadOnlyAccessIsRefused : Obligations.UnmappedAndReadOnlyAccessIsRefused := by
  intro off v s h4
  refine ⟨fun hoff => ⟨busRead_refused fun reg hp hreg => ?_, busWrite_refused fun reg t hp hreg _ => ?_⟩,
    fun hoff => busWrite_refused fun reg t hp hreg hw => ?_, fun hoff hidle => ?_, busRead_secrets off 4 s⟩
  · have hmapped := hreg ▸ busOffset_mapped hp
    omega
  · have hmapped := hreg ▸ busOffset_mapped hp
    omega
  · have hwritable := hreg ▸ busOffset_of_writeReg hp hw
    simp only [List.mem_cons, List.not_mem_nil, or_false] at hoff hwritable
    omega
  · obtain ⟨reg, hp, rfl⟩ := exists_reg_of_mapped h4 hoff
    rw [busRead_idle_eq hp hidle]

/-- Settles O45: such an access is no word access (R62), the first check of R63 and R64. -/
theorem misalignedOrWrongSizedAccessIsRefused : Obligations.MisalignedOrWrongSizedAccessIsRefused := by
  intro off size v s h
  have hacc : wordAccess off size = false := decide_eq_false fun ⟨hsize, h4⟩ => h.elim (· hsize) (· h4)
  exact ⟨if_pos hacc, if_pos hacc⟩

/-- Settles O47: another offset holds no register that is open while BUSY = 1; the open ones answer as ever. -/
theorem accessIsRefusedWhileACommandIsInFlight : Obligations.AccessIsRefusedWhileACommandIsInFlight := by
  intro off v s hbusy
  refine ⟨fun hid hstatus hctrl => busRead_refused fun reg _ hreg hfree => ?_,
    fun hstatus hctrl => busWrite_refused fun reg t _ hreg _ hfree => ?_,
    busRead_busOffset (reg := .id) rfl fun _ => rfl, busRead_busOffset (reg := .status) rfl fun _ => rfl,
    busRead_busOffset (reg := .ctrl) rfl fun _ => rfl, busWrite_busOffset (reg := .status) rfl (fun _ => rfl) rfl,
    busWrite_busOffset (reg := .ctrl) rfl (fun _ => rfl) rfl⟩
  · rcases busOffset_of_readableWhileBusy (hfree hbusy) with h | h | h
    · exact hid (hreg.symm.trans h)
    · exact hstatus (hreg.symm.trans h)
    · exact hctrl (hreg.symm.trans h)
  · rcases busOffset_of_writableWhileBusy (hfree hbusy) with h | h
    · exact hstatus (hreg.symm.trans h)
    · exact hctrl (hreg.symm.trans h)

/-! ### The windows and the control registers (20_memory.md R64 to R67) -/

/-- R66: the `k` low limbs of a number. -/
theorem sum_limbs (x : Big) (k : Nat) :
    ∑ i ∈ Finset.range k, (limb x i).toNat * 2 ^ (32 * i) = x.toNat % 2 ^ (32 * k) := by
  induction k with
  | zero => simp [Nat.mod_one]
  | succ k ih =>
    rw [Finset.sum_range_succ, ih, limb, BitVec.toNat_ofNat, Nat.mul_succ, pow_add, Nat.mod_mul,
      Nat.mul_comm (2 ^ (32 * k))]

/-- Settles O51: a window offset finds its limb; all 128 limbs together are the number. -/
theorem windowsShowTheLimbs : Obligations.WindowsShowTheLimbs := by
  intro s x hidle
  refine ⟨fun i hi => ?_, ?_⟩
  · exact busRead_idle_eq (reg := .limb x i) (decide_eq_true hi) hidle
  · have hW : 32 * 128 = Config.W := rfl
    rw [sum_limbs, hW, Nat.mod_eq_of_lt (s.bigReg x).isLt]

/-- R67: the number a limb write leaves, in the rule's words. -/
theorem setLimb_toNat_replaced (x : Big) (i : Nat) (v : Word) (hi : i < Config.NL) :
    (setLimb x i v).toNat =
      x.toNat - x.toNat / 2 ^ (32 * i) % 2 ^ 32 * 2 ^ (32 * i) + v.toNat * 2 ^ (32 * i) := by
  have hlimb : x.toNat / 2 ^ (32 * i) % 2 ^ 32 = (limb x i).toNat := (BitVec.toNat_ofNat _ _).symm
  have hnew := setLimb_toNat x i v hi
  have hold := limb_parts x i
  rw [Nat.mul_add, Nat.mul_comm _ v.toNat] at hnew
  rw [Nat.mul_add, Nat.mul_comm _ (limb x i).toNat] at hold
  rw [hlimb]
  omega

/-- R67: a limb write replaces its limb and keeps the others. -/
theorem setLimb_replaces (x : Big) (i : Nat) (v : Word) (hi : i < 128) :
    (setLimb x i v).toNat =
        x.toNat - x.toNat / 2 ^ (32 * i) % 2 ^ 32 * 2 ^ (32 * i) + v.toNat * 2 ^ (32 * i) ∧
      limb (setLimb x i v) i = v ∧ ∀ j, j < 128 → j ≠ i → limb (setLimb x i v) j = limb x j :=
  ⟨setLimb_toNat_replaced x i v hi, limb_setLimb_same x i v hi, fun j _ hj => limb_setLimb_other x i j v hi hj.symm⟩

/-- Settles O52: each write is `setLimb` on its register, for N with `dropKey`. -/
theorem windowWriteReplacesOneLimb : Obligations.WindowWriteReplacesOneLimb := by
  intro s i v hidle hi
  have hpresent : ∀ x, (Reg.limb x i).present = true := fun _ => decide_eq_true hi
  exact ⟨⟨setLimb s.n i v, setLimb_replaces s.n i v hi, busWrite_idle (hpresent .n) hidle rfl⟩,
    ⟨setLimb s.a i v, setLimb_replaces s.a i v hi, busWrite_idle (hpresent .a) hidle rfl⟩,
    ⟨setLimb s.e i v, setLimb_replaces s.e i v hi, busWrite_idle (hpresent .e) hidle rfl⟩⟩

/-- Settles O56: each offset finds its register, and `writeReg` sets its field alone. -/
theorem hostWritesOfTheControlRegisters : Obligations.HostWritesOfTheControlRegisters := fun _ _ =>
  ⟨busWrite_busOffset (reg := .ctrl) rfl (fun _ => rfl) rfl, fun hidle =>
    ⟨busWrite_idle (reg := .idlen) rfl hidle rfl, busWrite_idle (reg := .xcap) rfl hidle rfl,
      busWrite_idle (reg := .scap) rfl hidle rfl⟩⟩

/-! ### The next event (20_memory.md R73) -/

/-- R96: with no command in flight the engine has no step. -/
theorem engineTurn_idle {s : State} (hidle : s.busy = false) : engineTurn s = .next s := by
  rw [engineTurn, hidle]
  rfl

/-- R73: a step serves the event at the head of the list, taken off it. -/
theorem step_of_event {s : State} {i : Input} {rest : List Input} (h : s.inputs = i :: rest) :
    step s = serve { s with inputs := rest } i := by
  rw [step, advance, h]

/-- R255: with no event left a step is the engine's turn. -/
theorem step_of_no_event {s : State} (h : s.inputs = []) : step s = engineTurn s := by
  rw [step, advance, h]

/-- Settles O57: `step_of_event`, and the engine that has no step. -/
theorem stepServesTheNextEvent : Obligations.StepServesTheNextEvent := fun _ _ =>
  ⟨fun _ _ _ h => step_of_event h, fun _ _ h => step_of_event h, fun h => step_of_event h,
    fun hidle h => (step_of_event h).trans (engineTurn_idle hidle),
    fun hidle h => (step_of_no_event h).trans (engineTurn_idle hidle)⟩

end Sys2Proof.Machine

/-! ### The fields of a command word (30_encoding.md R91 to R94, R99) -/

namespace Sys2Proof

/-- R92: the table has no `op` above 0x07. -/
theorem Instr.opcode_le (i : Instr) : i.opcode.toNat ≤ 0x07 := by
  cases i <;> simp [Instr.opcode]

/-- R91: format CI belongs to `op` 0x04 alone. -/
theorem Instr.immediate_eq_zero {i : Instr} (h : i.opcode ≠ 0x04) : i.immediate = 0 := by
  cases i with
  | setup imm16 => exact absurd rfl h
  | _ => rfl

/-- R92: the table has a command for every `op` up to 0x07, with any immediate where `op` is 0x04. -/
theorem Instr.exists_of_fields {op : Byte} {imm16 : Nat} (hop : op.toNat ≤ 0x07) (himm : op ≠ 0x04 → imm16 = 0) :
    ∃ i : Instr, i.opcode = op ∧ i.immediate = imm16 := by
  obtain ⟨k, rfl, hk⟩ : ∃ k, op = BitVec.ofNat 8 k ∧ k ≤ 0x07 := ⟨op.toNat, by simp, hop⟩
  interval_cases k
  · exact ⟨.nop, rfl, (himm (by decide)).symm⟩
  · exact ⟨.jacobi, rfl, (himm (by decide)).symm⟩
  · exact ⟨.modexp, rfl, (himm (by decide)).symm⟩
  · exact ⟨.sqrt, rfl, (himm (by decide)).symm⟩
  · exact ⟨.setup imm16, rfl, rfl⟩
  · exact ⟨.xinit, rfl, (himm (by decide)).symm⟩
  · exact ⟨.xtry, rfl, (himm (by decide)).symm⟩
  · exact ⟨.zeroize, rfl, (himm (by decide)).symm⟩

/-- R93: a command is well-formed when its immediate fits the 16-bit field. -/
theorem Instr.wellFormed_of_immediate {i : Instr} (h : i.immediate < 65536) : i.wellFormed = true := by
  cases i with
  | setup imm16 => exact decide_eq_true h
  | _ => rfl

/-- R91: the three fields of the word the assembler emits. -/
theorem encode_fields {i : Instr} (h : i.wellFormed = true) :
    opField (encode i) = i.opcode ∧ rsvField (encode i) = 0 ∧ immField (encode i) = i.immediate := by
  cases i with
  | nop => exact Laws.EncodingFields.nop h
  | jacobi => exact Laws.EncodingFields.jacobi h
  | modexp => exact Laws.EncodingFields.modexp h
  | sqrt => exact Laws.EncodingFields.sqrt h
  | setup imm16 => exact Laws.EncodingFields.setup imm16 h
  | xinit => exact Laws.EncodingFields.xinit h
  | xtry => exact Laws.EncodingFields.xtry h
  | zeroize => exact Laws.EncodingFields.zeroize h

/-- R91: the three fields are all of a word. -/
theorem word_ext_fields {w w' : Word} (hop : opField w = opField w') (hrsv : rsvField w = rsvField w')
    (himm : immField w = immField w') : w = w' := by
  have hparts : ∀ u : Word, u.extractLsb' 16 16 ++ rsvField u ++ opField u = u := fun u => by
    rw [rsvField, opField, BitVec.extractLsb'_append_extractLsb'_eq_extractLsb' (show 16 = 8 + 8 from rfl),
      BitVec.extractLsb'_append_extractLsb'_eq_extractLsb' (show 8 = 0 + 8 from rfl), BitVec.extractLsb'_eq_self]
  rw [← hparts w, ← hparts w', hop, hrsv, BitVec.eq_of_toNat_eq himm]

/-- R65: the byte lanes of a word make the word again. -/
theorem decodeLanes_lanesOfWord (w : Word) : decodeLanes (lanesOfWord w) = decode w := by
  have hword : wordOfLanes (w.extractLsb' 0 8) (w.extractLsb' 8 8) (w.extractLsb' 16 8) (w.extractLsb' 24 8) = w := by
    rw [wordOfLanes, BitVec.extractLsb'_append_extractLsb'_eq_extractLsb' (show 24 = 16 + 8 from rfl),
      BitVec.extractLsb'_append_extractLsb'_eq_extractLsb' (show 16 = 8 + 8 from rfl),
      BitVec.extractLsb'_append_extractLsb'_eq_extractLsb' (show 8 = 0 + 8 from rfl), BitVec.extractLsb'_eq_self]
  rw [lanesOfWord, decodeLanes, hword]

/-- R92: a word with zero `rsv` whose other fields are a command's decodes to that command. -/
theorem decode_of_fields {w : Word} {i : Instr} (hrsv : rsvField w = 0) (hop : opField w = i.opcode)
    (himm : immField w = i.immediate) : decode w = .ok i := by
  unfold decode
  cases i <;> simp [hrsv, hop, himm, Instr.opcode, Instr.immediate]

/-- R94: a word that decodes passes each check. -/
theorem legal_of_decode {w : Word} {i : Instr} (h : decode w = .ok i) :
    rsvField w = 0 ∧ (opField w).toNat ≤ 0x07 ∧ (opField w ≠ 0x04 → immField w = 0) := by
  unfold decode at h
  split_ifs at h with hrsv hop himm
  exact ⟨not_not.mp hrsv, Nat.le_of_not_lt hop, fun h4 => by_contra fun h0 => himm ⟨h4, h0⟩⟩

/-- R94: decoding reads off the three fields, and nothing else of a word. -/
theorem decode_eq_ok_iff {w : Word} {i : Instr} :
    decode w = .ok i ↔ rsvField w = 0 ∧ opField w = i.opcode ∧ immField w = i.immediate := by
  refine ⟨fun h => ?_, fun ⟨hrsv, hop, himm⟩ => decode_of_fields hrsv hop himm⟩
  obtain ⟨hrsv, hop, himm⟩ := legal_of_decode h
  obtain ⟨i', hop', himm'⟩ := Instr.exists_of_fields hop himm
  cases h.symm.trans (decode_of_fields hrsv hop'.symm himm'.symm)
  exact ⟨hrsv, hop'.symm, himm'.symm⟩

/-- R94: the legal words. -/
theorem exists_decode_iff {w : Word} :
    (∃ i, decode w = .ok i) ↔
      rsvField w = 0 ∧ (opField w).toNat ≤ 0x07 ∧ (opField w ≠ 0x04 → immField w = 0) := by
  refine ⟨fun ⟨_, h⟩ => legal_of_decode h, fun ⟨hrsv, hop, himm⟩ => ?_⟩
  obtain ⟨i, hop', himm'⟩ := Instr.exists_of_fields hop himm
  exact ⟨i, decode_of_fields hrsv hop'.symm himm'.symm⟩

/-- Settles O8: the fields of the encoding are the command's, and decoding reads them off. -/
theorem decodeOfEncodeIsTheCommand : Obligations.DecodeOfEncodeIsTheCommand := by
  intro i hi
  obtain ⟨hop, hrsv, himm⟩ := encode_fields hi
  have hdecode : decode (encode i) = .ok i := decode_of_fields hrsv hop himm
  exact ⟨hdecode, (decodeLanes_lanesOfWord _).trans hdecode⟩

/-- Settles O9: a legal word and the encoding of its command have the same three fields. -/
theorem encodeOfDecodeIsTheWord : Obligations.EncodeOfDecodeIsTheWord := by
  intro w i h
  obtain ⟨hrsv, hop, himm⟩ := decode_eq_ok_iff.mp h
  have hi : i.wellFormed = true := Instr.wellFormed_of_immediate (himm ▸ BitVec.isLt _)
  obtain ⟨hop', hrsv', himm'⟩ := encode_fields hi
  exact ⟨hi, word_ext_fields (hop'.trans hop.symm) (hrsv'.trans hrsv.symm) (himm'.trans himm.symm)⟩

/-- Settles O11: the fields of each word are those of its command. -/
theorem wordsOfTheTableDecode : Obligations.WordsOfTheTableDecode :=
  ⟨decode_of_fields rfl rfl rfl, decode_of_fields rfl rfl rfl, decode_of_fields rfl rfl rfl,
    decode_of_fields rfl rfl rfl, decode_of_fields rfl rfl rfl, decode_of_fields rfl rfl rfl,
    decode_of_fields rfl rfl rfl, decode_of_fields rfl rfl rfl⟩

end Sys2Proof

/-! ### Acceptance and the engine's turn (30_encoding.md R95 to R97) -/

namespace Sys2Proof.Machine

/-- R95: with no command in flight a word written to CMD is accepted. -/
theorem busWrite_cmd_idle {s : State} (w : Word) (hidle : s.busy = false) : busWrite 0x004 4 w s = accept w s :=
  busWrite_idle (reg := .cmd) rfl hidle rfl

/-- R70, R95: a word written to CMD while a command is in flight is refused. -/
theorem busWrite_cmd_busy {s : State} (w : Word) (hbusy : s.busy = true) : busWrite 0x004 4 w s = refuseAccess s :=
  busWrite_refused fun reg _ _ hreg _ hfree => by
    rcases busOffset_of_writableWhileBusy (hfree hbusy) with h | h
    · exact absurd (hreg.symm.trans h) (by decide)
    · exact absurd (hreg.symm.trans h) (by decide)

/-- R96: the engine's turn executes the decoded command. -/
theorem engineTurn_of_decode_ok {s : State} {i : Instr} (hbusy : s.busy = true) (hdec : decode s.cmdr = .ok i) :
    engineTurn s = exec i s := by
  rw [engineTurn, if_pos hbusy, hdec]

/-- R204: the engine's turn on an illegal word raises ILLEGAL_COMMAND. -/
theorem engineTurn_of_decode_error {s : State} {why : Illegal} (hbusy : s.busy = true)
    (hdec : decode s.cmdr = .error why) : engineTurn s = .next (raiseFault .illegalCommand s) := by
  rw [engineTurn, if_pos hbusy, hdec]

theorem State.pop_of_no_event {s : State} (h : s.inputs = []) : s.pop = s := by
  rw [State.pop, h, List.tail_nil, ← h]

/-- R96: where the engine is next, a step is its turn. -/
theorem step_of_engineNext {s : State} (h : EngineNext s) : step s = engineTurn s.pop := by
  rcases h with hnil | ⟨rest, hcons⟩
  · rw [step_of_no_event hnil, State.pop_of_no_event hnil]
  · rw [step_of_event hcons, State.pop, hcons]
    rfl

/-- R97: an engine's turn whose draws are answered ends the command in flight. -/
theorem engineTurn_ends {s t : State} (h : engineTurn s = .next t) (hbusy : s.busy = true) (hs : DrawsAnswered s) :
    (∃ k, Faulted k s t) ∨ Completed s t := by
  rcases engineTurn_cases h with ⟨hidle, -⟩ | ⟨-, why, -, rfl⟩ | ⟨-, i, -, hx⟩
  · exact absurd (hidle.symm.trans hbusy) Bool.false_ne_true
  · exact .inl ⟨_, faulted_raiseFault rfl⟩
  · rcases exec_ends hx with hf | hc | ⟨hsilent, -⟩
    · exact .inl hf
    · exact .inr hc
    · exact absurd (hs.symm.trans hsilent) Bool.false_ne_true

/-- Settles O3: the accepted and the refused write to CMD. -/
theorem commandWriteIsAcceptedOnlyWhenIdle : Obligations.CommandWriteIsAcceptedOnlyWhenIdle := by
  intro s w
  split_ifs with hb
  · exact busWrite_cmd_busy w hb
  · exact busWrite_cmd_idle w (Bool.eq_false_of_not_eq_true hb)

/-- Settles O4: a step is the engine's turn with its event, if there is one, taken off. -/
theorem stepRunsTheDecodedCommand : Obligations.StepRunsTheDecodedCommand := fun _ _ hbusy hdec =>
  ⟨fun h => (step_of_no_event h).trans (engineTurn_of_decode_ok hbusy hdec),
    fun _ h => (step_of_event h).trans (engineTurn_of_decode_ok hbusy hdec)⟩

/-- Settles O5: the step is the engine's turn, and the turn raises the fault. -/
theorem illegalWordEndsInItsFault : Obligations.IllegalWordEndsInItsFault := fun _ _ hbusy hnext hdec =>
  (step_of_engineNext hnext).trans (engineTurn_of_decode_error hbusy hdec)

/-- Settles O6: the step is the engine's turn, and both of its ends clear BUSY and set one of DONE and FLT. -/
theorem commandEndsInDoneOrFault : Obligations.CommandEndsInDoneOrFault := by
  intro s hbusy hdone hflt hnext hs
  obtain ⟨t, ht⟩ := step_next s
  have hturn : engineTurn s.pop = .next t := (step_of_engineNext hnext).symm.trans ht
  refine ⟨t, ht, ?_⟩
  rcases engineTurn_ends hturn hbusy hs with ⟨k, hf⟩ | hc
  · exact ⟨hf.busy, by rw [hf.done, hf.flt]; exact hdone⟩
  · exact ⟨hc.busy, by rw [hc.done, hc.flt, show s.pop.flt = false from hflt]; rfl⟩

/-- Settles O10: `exists_decode_iff` in the rule's words; the illegal word is accepted and ends in its fault. -/
theorem illegalWordsAreExactlyThese : Obligations.IllegalWordsAreExactlyThese := by
  intro w illegal
  have himm : immField w = 0 ↔ w.extractLsb' 16 16 = 0 := BitVec.toNat_inj (y := 0)
  have hlegal : (∃ i, decode w = .ok i) ↔ ¬ illegal := by
    change _ ↔ ¬ (0x07 < (opField w).toNat ∨ rsvField w ≠ 0 ∨ (opField w ≠ 0x04 ∧ w.extractLsb' 16 16 ≠ 0))
    rw [exists_decode_iff, himm, not_or, not_or, not_lt, not_not, not_and_not_right, and_left_comm]
  refine ⟨fun hill => ?_, fun hnot => ?_⟩
  · cases hdec : decode w with
    | ok i => exact absurd hill (hlegal.mp ⟨i, hdec⟩)
    | error why =>
      refine ⟨⟨why, rfl⟩, fun s hidle => ?_⟩
      rw [busWrite_cmd_idle w hidle]
      exact ⟨rfl, engineTurn_of_decode_error rfl hdec⟩
  · obtain ⟨i, hdec⟩ := hlegal.mpr hnot
    obtain ⟨-, hop, himm⟩ := decode_eq_ok_iff.mp hdec
    exact ⟨i, hdec, hop.symm, himm.symm⟩

end Sys2Proof.Machine

/-! ### The host's statements (30_encoding.md R103) -/

namespace Sys2Proof.Machine

/-- `wr` of a register that is writable, with no command in flight. -/
theorem hostWrite_idle {reg : Reg} {s t : State} {v : Word} (hp : reg.present = true) (hidle : s.busy = false)
    (hw : writeReg s v reg = some t) : hostWrite reg v s = t :=
  busWrite_idle hp hidle hw

/-- `rd` of a register with no command in flight. -/
theorem hostRead_idle {reg : Reg} {s : State} (hp : reg.present = true) (hidle : s.busy = false) :
    hostRead reg s = (readReg s reg, { s with rdata := readReg s reg }) := by
  have hread : deliver (.read (busOffset reg) 4) s = { s with rdata := readReg s reg } := by
    rw [deliver_next rfl, busRead_idle_eq hp hidle]
  rw [hostRead, hread]

/-- A register with the `k` low limbs of `v` written to it, in rising order. -/
def withLimbs (x : Big) (v : Nat) : (k : Nat) → Big
  | 0 => x
  | k + 1 => setLimb (withLimbs x v k) k (limbOf v k)

theorem limb_withLimbs (x : Big) (v : Nat) {k i : Nat} (hk : k ≤ Config.NL) (hi : i < k) :
    limb (withLimbs x v k) i = limbOf v i := by
  induction k with
  | zero => exact absurd hi (Nat.not_lt_zero i)
  | succ k ih =>
    rcases Nat.lt_succ_iff_lt_or_eq.mp hi with hlt | rfl
    · exact (limb_setLimb_other _ k i _ hk hlt.ne').trans (ih (Nat.le_of_succ_le hk) hlt)
    · exact limb_setLimb_same _ i _ hk

/-- R66: all limbs written are the number. -/
theorem withLimbs_all (x : Big) {v : Nat} (hv : v < 2 ^ Config.W) : withLimbs x v Config.NL = big v :=
  big_ext_limbs fun i hi => by
    rw [limb_withLimbs x v le_rfl hi, limb, big_toNat hv, limbOf]

/-- The limb writes of `wrbig` to a register whose window writes set it alone, `put b` being the state in which it
holds `b`. -/
theorem hostWriteLimbs_eq {x : BigReg} {put : Big → State} (hidle : ∀ b, (put b).busy = false)
    (hwrite : ∀ b i w, writeReg (put b) w (.limb x i) = some (put (setLimb b i w))) (b : Big) (v : Nat) {k : Nat}
    (hk : k ≤ Config.NL) : hostWriteLimbs x v k (put b) = put (withLimbs b v k) := by
  induction k with
  | zero => rfl
  | succ k ih =>
    rw [hostWriteLimbs, ih (Nat.le_of_succ_le hk)]
    exact hostWrite_idle (decide_eq_true hk) (hidle _) (hwrite _ _ _)

theorem hostWriteBig_a {s : State} {v : Nat} (hidle : s.busy = false) (hv : v < 2 ^ Config.W) :
    hostWriteBig .a v s = { s with a := big v } := by
  rw [← withLimbs_all s.a hv]
  exact hostWriteLimbs_eq (put := fun b => { s with a := b }) (fun _ => hidle) (fun _ _ _ => rfl) s.a v le_rfl

theorem hostWriteBig_e {s : State} {v : Nat} (hidle : s.busy = false) (hv : v < 2 ^ Config.W) :
    hostWriteBig .e v s = { s with e := big v } := by
  rw [← withLimbs_all s.e hv]
  exact hostWriteLimbs_eq (put := fun b => { s with e := b }) (fun _ => hidle) (fun _ _ _ => rfl) s.e v le_rfl

/-- The limb reads of `rdbig`: the low limbs of the register, and nothing changed but the bus value. -/
theorem hostReadLimbs_eq (x : BigReg) {s : State} (hidle : s.busy = false) {k : Nat} (hk : k ≤ Config.NL) :
    ∃ w, hostReadLimbs x k s =
      (∑ i ∈ Finset.range k, (limb (s.bigReg x) i).toNat * 2 ^ (32 * i), { s with rdata := w }) := by
  induction k with
  | zero => exact ⟨s.rdata, rfl⟩
  | succ k ih =>
    obtain ⟨w, hlow⟩ := ih (Nat.le_of_succ_le hk)
    have hread : hostRead (.limb x k) { s with rdata := w } =
        (limb (s.bigReg x) k, { s with rdata := limb (s.bigReg x) k }) := by
      have hp : (Reg.limb x k).present = true := decide_eq_true hk
      rw [hostRead_idle (s := { s with rdata := w }) hp hidle]
      cases x <;> rfl
    exact ⟨limb (s.bigReg x) k, by simp only [hostReadLimbs, hlow, hread, Finset.sum_range_succ]⟩

/-- `rdbig` reads the register, and changes nothing but the bus value. -/
theorem hostReadBig_eq (x : BigReg) {s : State} (hidle : s.busy = false) :
    ∃ w, hostReadBig x s = ((s.bigReg x).toNat, { s with rdata := w }) := by
  obtain ⟨w, hread⟩ := hostReadLimbs_eq x hidle le_rfl
  have hW : 32 * Config.NL = Config.W := rfl
  rw [sum_limbs, hW, Nat.mod_eq_of_lt (s.bigReg x).isLt] at hread
  exact ⟨w, hread⟩

/-- Settles O53: `hostWriteBig_a` and `hostWriteBig_e`, and what `rdbig` then reads. -/
theorem bigNumberTransfersRoundTrip : Obligations.BigNumberTransfersRoundTrip := by
  intro s v hidle hv
  rw [show 4096 = Config.W from rfl] at hv
  have hread : ∀ (x : BigReg) (t : State), t.busy = false → t.bigReg x = big v → (hostReadBig x t).1 = v := by
    intro x t ht hx
    obtain ⟨w, h⟩ := hostReadBig_eq x ht
    rw [h, hx, big_toNat hv]
  rw [hostWriteBig_a hidle hv, hostWriteBig_e hidle hv]
  exact ⟨rfl, rfl, hread .a _ hidle rfl, hread .e _ hidle rfl⟩

/-- The polls of `wait`: after the engine's turn BUSY is found 0 or the loop goes on for ever, however many polls came
before the turn. -/
theorem pollStatus_eq {s t : State} (h : engineTurn s = .next t) (k : Nat) :
    pollStatus k s = (!t.busy, { t with rdata := t.statusWord }) := by
  induction k generalizing s t with
  | zero =>
    have hturn : deliver .engine s = t := deliver_next h
    simp only [pollStatus, hturn, hostRead_status, statusWord_busy]
  | succ k ih =>
    have hpoll : hostRead .status (deliver .idle s) = (s.statusWord, { s with rdata := s.statusWord }) :=
      hostRead_status s
    simp only [pollStatus, hpoll, statusWord_busy]
    split_ifs with hb
    · exact ih (t := { t with rdata := s.statusWord }) (engineTurn_rdata s s.statusWord h)
    · have hidle := Bool.eq_false_of_not_eq_true hb
      cases (engineTurn_idle hidle).symm.trans h
      rw [hidle]
      rfl

/-- Settles O59: `pollStatus_eq`, and `engineTurn_again` for the turns after one that leaves BUSY at 1. -/
theorem waitEndsWithTheCommand : Obligations.WaitEndsWithTheCommand := by
  intro h t ht
  have hpoll := pollStatus_eq ht (h.polls.headD 0)
  refine ⟨fun hb => ?_, fun hb => ⟨engineTurn_again ht hb, ?_⟩⟩
  · rw [hostWait, hpoll, hb]
    rfl
  · rw [hostWait, hpoll, hb]
    rfl

end Sys2Proof.Machine

/-! ### JACOBI (40_jacobi.md R110 to R112) -/

namespace Sys2Proof.Machine

/-- A number has a square root modulo `m` exactly when one of the residues is its root. -/
theorem isSquare_natCast_zmod_iff (a : Nat) {m : Nat} (hm : 0 < m) :
    IsSquare (a : ZMod m) ↔ ∃ x, x < m ∧ x * x % m = a % m := by
  have : NeZero m := ⟨hm.ne'⟩
  constructor
  · rintro ⟨r, hr⟩
    refine ⟨r.val, r.val_lt, (ZMod.natCast_eq_natCast_iff' _ _ m).mp ?_⟩
    rw [Nat.cast_mul, ZMod.natCast_zmod_val, hr]
  · rintro ⟨x, -, hx⟩
    have hcast := (ZMod.natCast_eq_natCast_iff' _ _ m).mpr hx
    exact ⟨x, by rw [← hcast, Nat.cast_mul]⟩

/-- The Legendre symbol of R110 is Mathlib's, at every prime. -/
theorem legendre_eq_legendreSym (a p : Nat) [Fact p.Prime] : legendre a p = legendreSym p a := by
  have hzero : a % p = 0 ↔ (a : ZMod p) = 0 := by rw [ZMod.natCast_eq_zero_iff, Nat.dvd_iff_mod_eq_zero]
  have hsquare := isSquare_natCast_zmod_iff a (Fact.out : p.Prime).pos
  unfold legendre
  split_ifs with h0 hroot
  · exact ((legendreSym.eq_zero_iff p a).mpr (by simpa using hzero.mp h0)).symm
  · exact ((legendreSym.eq_one_iff' p (mt hzero.mpr h0)).mpr (hsquare.mpr hroot)).symm
  · exact ((legendreSym.eq_neg_one_iff' p).mpr (mt hsquare.mp hroot)).symm

/-- The Jacobi symbol of R110 is Mathlib's. -/
theorem jacobiProduct_eq_jacobiSym (a n : Nat) : jacobiProduct a n = jacobiSym (a : ℤ) n := by
  rw [jacobiProduct, jacobiSym, ← List.pmap_eq_map fun _ => Nat.prime_of_mem_primeFactorsList]
  refine congrArg List.prod (List.pmap_congr_left _ fun p _ hp _ => ?_)
  have : Fact p.Prime := ⟨hp⟩
  exact legendre_eq_legendreSym a p

/-- R205, in the words of the rule. -/
theorem badModulus_eq_true_iff (n : Nat) : badModulus n = true ↔ n % 2 = 0 ∨ n < 3 := decide_eq_true_iff

theorem badModulus_eq_false_of_odd {n : Nat} (hodd : n % 2 = 1) (hlow : 3 ≤ n) : badModulus n = false :=
  decide_eq_false (by omega)

/-- R112: with a legal modulus JACOBI completes with the value of the algorithm in J. -/
theorem exec_jacobi_completed {s : State} (h : badModulus s.n.toNat = false) :
    exec .jacobi s = .next (complete (setJ (jacobi s.a.toNat s.n.toNat) s)) :=
  if_neg (by simp [h])

/-- Settles O14: the algorithm and the definition by Legendre symbols are both Mathlib's symbol. -/
theorem jacobiAlgorithmComputesTheSymbol : Obligations.JacobiAlgorithmComputesTheSymbol := fun a n hn =>
  (toInt_jacobi a hn).trans (jacobiProduct_eq_jacobiSym a n).symm

/-- Settles O15: the two ends of JACOBI, and `toInt_jacobi` for the value of J. -/
theorem jacobiWritesTheSymbolOrFaults : Obligations.JacobiWritesTheSymbolOrFaults := fun s =>
  ⟨fun hodd hlow => ⟨jacobi s.a.toNat s.n.toNat, toInt_jacobi s.a.toNat hodd,
      exec_jacobi_completed (badModulus_eq_false_of_odd hodd hlow)⟩,
    fun hbad => exec_jacobi_refused ((badModulus_eq_true_iff _).mpr hbad)⟩

end Sys2Proof.Machine

/-! ### MODEXP (41_modexp.md R120 to R122) -/

namespace Sys2Proof.Machine

/-- R120: on a modulus of the register's width the result register holds the power exactly. -/
theorem big_modexp_toNat {n : Big} (a e : Nat) (hn : 0 < n.toNat) :
    (big (modexp a e n.toNat)).toNat = a ^ e % n.toNat := by
  have hlt := modexp_lt a e hn
  rw [big_toNat (hlt.trans n.isLt), modexp_eq_pow_mod]

/-- R122: with a legal modulus MODEXP completes with the value of the algorithm in R. -/
theorem exec_modexp_completed {s : State} (h : badModulus s.n.toNat = false) :
    exec .modexp s = .next (complete (setR (modexp s.a.toNat s.e.toNat s.n.toNat) s)) :=
  if_neg (by simp [h])

/-- Settles O16: the two ends of MODEXP, and `big_modexp_toNat` for the value of R. -/
theorem modexpWritesThePowerOrFaults : Obligations.ModexpWritesThePowerOrFaults := fun s =>
  ⟨fun hodd hlow => ⟨big (modexp s.a.toNat s.e.toNat s.n.toNat), big_modexp_toNat _ _ (Nat.zero_lt_of_lt hlow),
      exec_modexp_completed (badModulus_eq_false_of_odd hodd hlow)⟩,
    fun hbad => exec_modexp_refused ((badModulus_eq_true_iff _).mpr hbad)⟩

end Sys2Proof.Machine

/-! ### The loops of SETUP on explicit answers (42_blum_setup.md R131 to R136) -/

namespace Sys2Proof.Machine

/-- R131: the least prime above `x` is the one `nextPrime` finds. -/
theorem leastPrimeAbove_iff {x p : Nat} : LeastPrimeAbove x p ↔ p = nextPrime x := by
  obtain ⟨hprime, hlt, hleast⟩ := nextPrime_spec x
  refine ⟨fun ⟨hp, hxp, hp'⟩ => ?_, fun h => h ▸ nextPrime_spec x⟩
  rcases Nat.lt_trichotomy p (nextPrime x) with h | h | h
  · exact absurd hp (hleast p hxp h)
  · exact h
  · exact absurd hprime (hp' _ hlt h)

/-- R132: the forced top bit of an answer, in the words of `candidateOf`. -/
theorem forceTopBit_eq_candidateOf {h : Nat} (hh : 0 < h) (v : BitVec Config.portBits) :
    forceTopBit h (v.toNat % 2 ^ h) = candidateOf h v := by
  have hpow : 2 ^ h = 2 ^ (h - 1) * 2 := by rw [← pow_succ, Nat.sub_add_cancel hh]
  have hmod := Nat.mod_mul (x := v.toNat) (a := 2 ^ (h - 1)) (b := 2)
  have hlow := Nat.mod_lt v.toNat (Nat.two_pow_pos (h - 1))
  rw [forceTopBit, candidateOf, hpow, hmod]
  rcases Nat.mod_two_eq_zero_or_one (v.toNat / 2 ^ (h - 1)) with hbit | hbit
  · rw [hbit, Nat.mul_zero, Nat.add_zero, if_pos hlow, Nat.add_comm]
  · rw [hbit, Nat.mul_one, if_neg (by omega), Nat.add_comm]

/-- An attempt that goes on finds a value exactly where both of its parts do. -/
theorem andThen_eq_found_iff {α β : Type} {m : Attempt α} {f : α → DrawRun → Attempt β} {y : β} {run : DrawRun} :
    m.andThen f = .found y run ↔ ∃ x mid, m = .found x mid ∧ f x mid = .found y run := by
  cases m <;> simp [Attempt.andThen]

/-- R132: a draw below the cap takes the next explicit answer. -/
theorem drawCandidate_answer {scap h : Nat} (hh : 0 < h) {run : DrawRun} {v : BitVec Config.portBits}
    {rest : List (BitVec Config.portBits)} (hcap : run.draws < scap) (hans : run.port.answers = v :: rest) :
    drawCandidate scap h run = .found (candidateOf h v) (run.skip 1) := by
  rw [drawCandidate, if_neg (Nat.not_le.mpr hcap), RandomPort.draw, hans, ← forceTopBit_eq_candidateOf hh]
  simp [DrawRun.skip, RandomPort.skip, hans]

/-- With draws to make below the cap the fuel has a turn left. -/
theorem exists_turn {draws used scap fuel : Nat} (hcap : draws + used ≤ scap) (hfuel : scap < draws + fuel) :
    ∃ turns, fuel = turns + 1 :=
  ⟨fuel - 1, by omega⟩

/-! Where the relations of the draws make a prime or a pair, so do the loops of SETUP. -/

/-- R134: a loop below the cap makes the prime its explicit answers make, and takes exactly those. -/
theorem blumPrime_of_draws {scap h : Nat} (hh : 0 < h) {used : List (BitVec Config.portBits)} {p : Nat}
    (hmake : DrawsMakePrime h used p) : ∀ {fuel : Nat} {run : DrawRun} {rest : List (BitVec Config.portBits)},
      run.port.answers = used ++ rest → run.draws + used.length ≤ scap → scap < run.draws + fuel →
      blumPrime scap h fuel run = .found p (run.skip used.length) := by
  induction hmake with
  | @accept v c hc h3 =>
    intro fuel run rest hans hcap hfuel
    obtain ⟨fuel, rfl⟩ := exists_turn hcap hfuel
    obtain rfl := leastPrimeAbove_iff.mp hc
    rw [blumPrime, drawCandidate_answer hh hcap hans]
    exact if_pos h3
  | @drop v c p answers hc h3 _ ih =>
    intro fuel run rest hans hcap hfuel
    rw [List.length_cons] at hcap
    obtain ⟨fuel, rfl⟩ := exists_turn hcap hfuel
    obtain rfl := leastPrimeAbove_iff.mp hc
    rw [blumPrime, drawCandidate_answer hh (by omega) hans]
    have hrest : blumPrime scap h fuel (run.skip 1) = .found p ((run.skip 1).skip answers.length) :=
      ih (rest := rest) (by simp [hans]) (by simp only [DrawRun.skip_draws]; omega)
        (by simp only [DrawRun.skip_draws]; omega)
    rw [DrawRun.skip_skip, Nat.add_comm] at hrest
    exact (if_neg h3).trans hrest

theorem DrawsMakePrime.length_pos {h p : Nat} {used : List (BitVec Config.portBits)} (hmake : DrawsMakePrime h used p) :
    0 < used.length := by
  cases hmake <;> simp

/-- R135: a second prime equal to the first is made again, as the relation says. -/
theorem distinctPrime_of_draws {scap h : Nat} (hh : 0 < h) {used : List (BitVec Config.portBits)} {p q : Nat}
    (hmake : DrawsMakeOtherPrime h p used q) :
    ∀ {fuel : Nat} {run : DrawRun} {rest : List (BitVec Config.portBits)},
      run.port.answers = used ++ rest → run.draws + used.length ≤ scap → scap < run.draws + fuel →
      distinctPrime scap h p fuel run = .found q (run.skip used.length) := by
  induction hmake with
  | @accept answers q hq hne =>
    intro fuel run rest hans hcap hfuel
    obtain ⟨fuel, rfl⟩ := exists_turn hcap hfuel
    rw [distinctPrime, blumPrime_of_draws hh hq hans hcap (by omega)]
    exact if_neg hne
  | @again answers more q hp _ ih =>
    intro fuel run rest hans hcap hfuel
    have hpos := hp.length_pos
    rw [List.length_append] at hcap
    rw [List.append_assoc] at hans
    obtain ⟨fuel, rfl⟩ := exists_turn hcap hfuel
    have hmore := ih (fuel := fuel) (run := run.skip answers.length) (rest := rest) (by simp [hans])
      (by simp only [DrawRun.skip_draws]; omega) (by simp only [DrawRun.skip_draws]; omega)
    rw [DrawRun.skip_skip, ← List.length_append] at hmore
    rw [distinctPrime, blumPrime_of_draws hh hp hans (by omega) (by omega)]
    exact (if_pos rfl).trans hmore

/-- R8: the length test of R136, in the words of `HasLength`. -/
theorem bitlen_eq_iff_hasLength {n L : Nat} (hL : 0 < L / 2) : bitlen n = L ↔ HasLength n L :=
  bitlen_eq_iff (by omega)

/-- One turn of the outer loop (R133) on the explicit answers of its two primes. -/
theorem primePair_turn {scap L fuel : Nat} (hL : 0 < L / 2) {first second rest : List (BitVec Config.portBits)}
    {p q : Nat} {run : DrawRun} (hp : DrawsMakePrime (L / 2) first p) (hq : DrawsMakeOtherPrime (L / 2) p second q)
    (hans : run.port.answers = first ++ second ++ rest) (hcap : run.draws + (first ++ second).length ≤ scap) :
    primePair scap L (fuel + 1) run =
      if bitlen (p * q) = L then .found (p, q) (run.skip (first ++ second).length)
      else primePair scap L fuel (run.skip (first ++ second).length) := by
  rw [List.length_append] at hcap
  rw [List.append_assoc] at hans
  rw [primePair, blumPrime_of_draws hL hp hans (by omega) (by omega), Attempt.andThen,
    distinctPrime_of_draws hL hq (rest := rest) (by simp [hans]) (by simp only [DrawRun.skip_draws]; omega)
      (by omega), DrawRun.skip_skip, ← List.length_append]
  rfl

/-- R133, R136: the outer loop discards pairs of the wrong length and finds the key its explicit answers make. -/
theorem primePair_of_draws {scap L : Nat} (hL : 0 < L / 2) {used : List (BitVec Config.portBits)} {p q : Nat}
    (hmake : DrawsMakeKey L used p q) :
    ∀ {fuel : Nat} {run : DrawRun} {rest : List (BitVec Config.portBits)},
      run.port.answers = used ++ rest → run.draws + used.length ≤ scap → scap < run.draws + fuel →
      primePair scap L fuel run = .found (p, q) (run.skip used.length) := by
  induction hmake with
  | @accept first second p q hp hq hlen =>
    intro fuel run rest hans hcap hfuel
    obtain ⟨fuel, rfl⟩ := exists_turn hcap hfuel
    rw [primePair_turn hL hp hq hans hcap, if_pos ((bitlen_eq_iff_hasLength hL).mpr hlen)]
  | @discard first second more p' q' p q hp hq hlen _ ih =>
    intro fuel run rest hans hcap hfuel
    have hpos := hp.length_pos
    have hpair : (first ++ second).length = first.length + second.length := List.length_append
    rw [List.length_append] at hcap
    rw [List.append_assoc] at hans
    obtain ⟨fuel, rfl⟩ := exists_turn hcap hfuel
    have hmore := ih (fuel := fuel) (run := run.skip (first ++ second).length) (rest := rest)
      (by rw [DrawRun.skip_port, RandomPort.skip_answers, hans, List.drop_left])
      (by simp only [DrawRun.skip_draws]; omega) (by simp only [DrawRun.skip_draws]; omega)
    rw [DrawRun.skip_skip, ← List.length_append] at hmore
    rw [primePair_turn hL hp hq hans (by omega), if_neg (mt (bitlen_eq_iff_hasLength hL).mp hlen), hmore]

/-- R131 to R137: a search finds the key its first answers make within the cap, and takes exactly those. -/
theorem searchKey_of_draws {L : Nat} (hL : 0 < L / 2) {used rest : List (BitVec Config.portBits)} {p q : Nat}
    {s : State} (hans : s.port.answers = used ++ rest) (hcap : used.length ≤ s.scap.toNat)
    (hmake : DrawsMakeKey L used p q) :
    searchKey L s = .found (p, q) { draws := used.length, port := s.port.skip used.length } := by
  have hpair := primePair_of_draws hL hmake (scap := s.scap.toNat) (fuel := s.scap.toNat + 1)
    (run := { draws := 0, port := s.port }) hans (by simpa using hcap) (by simp)
  simpa [searchKey, DrawRun.skip] using hpair

/-! What a loop of SETUP finds on explicit answers, the relations make of the answers it took. -/

/-- From `run` to `run'` answers were taken, and `made` holds of them where all were explicit. -/
def TakesDraws (made : List (BitVec Config.portBits) → Prop) (run run' : DrawRun) : Prop :=
  ∃ k, run' = run.skip k ∧ (k ≤ run.port.answers.length → made (run.port.answers.take k))

theorem TakesDraws.imp {made made' : List (BitVec Config.portBits) → Prop} {run run' : DrawRun}
    (h : TakesDraws made run run') (himp : ∀ l, made l → made' l) : TakesDraws made' run run' := by
  obtain ⟨k, rfl, hmade⟩ := h
  exact ⟨k, rfl, fun hk => himp _ (hmade hk)⟩

/-- Answers taken in two parts. -/
theorem TakesDraws.append {first second both : List (BitVec Config.portBits) → Prop} {run mid run' : DrawRun}
    (h1 : TakesDraws first run mid) (h2 : TakesDraws second mid run')
    (happ : ∀ l l', first l → second l' → both (l ++ l')) : TakesDraws both run run' := by
  obtain ⟨j, rfl, hfirst⟩ := h1
  obtain ⟨k, rfl, hsecond⟩ := h2
  refine ⟨j + k, DrawRun.skip_skip j k run, fun hlen => ?_⟩
  rw [List.take_add]
  refine happ _ _ (hfirst (by omega)) (hsecond ?_)
  rw [DrawRun.skip_port, RandomPort.skip_answers, List.length_drop]
  omega

/-- R132: a candidate comes of one answer. -/
theorem takesDraws_of_drawCandidate {scap h : Nat} (hh : 0 < h) {run run' : DrawRun} {x : Nat}
    (hfound : drawCandidate scap h run = .found x run') :
    TakesDraws (fun l => ∃ v, l = [v] ∧ x = candidateOf h v) run run' := by
  have hspec := drawCandidate_spec scap h run
  rw [hfound] at hspec
  obtain ⟨-, hcap, rfl⟩ := hspec
  refine ⟨1, rfl, fun hlen => ?_⟩
  obtain ⟨v, rest, hans⟩ := List.exists_cons_of_length_pos hlen
  rw [drawCandidate_answer hh hcap hans] at hfound
  cases hfound
  exact ⟨v, by rw [hans]; rfl, rfl⟩

/-- R134: a prime the loop finds is made of the answers it took. -/
theorem takesDraws_of_blumPrime {scap h : Nat} (hh : 0 < h) {p : Nat} {run' : DrawRun} :
    ∀ {fuel : Nat} {run : DrawRun}, blumPrime scap h fuel run = .found p run' →
      TakesDraws (DrawsMakePrime h · p) run run' := by
  intro fuel
  induction fuel with
  | zero => exact nofun
  | succ fuel ih =>
    intro run hfound
    obtain ⟨x, mid, hx, hrest⟩ := andThen_eq_found_iff.mp hfound
    have hone := takesDraws_of_drawCandidate hh hx
    have hleast : LeastPrimeAbove x (nextPrime x) := nextPrime_spec x
    by_cases h3 : nextPrime x % 4 = 3
    · rw [if_pos h3] at hrest
      cases hrest
      refine hone.imp fun l hl => ?_
      obtain ⟨v, rfl, rfl⟩ := hl
      exact .accept hleast h3
    · rw [if_neg h3] at hrest
      refine hone.append (ih hrest) fun l l' hl hl' => ?_
      obtain ⟨v, rfl, rfl⟩ := hl
      exact .drop hleast h3 hl'

/-- R135: so is a second prime. -/
theorem takesDraws_of_distinctPrime {scap h p : Nat} (hh : 0 < h) {q : Nat} {run' : DrawRun} :
    ∀ {fuel : Nat} {run : DrawRun}, distinctPrime scap h p fuel run = .found q run' →
      TakesDraws (DrawsMakeOtherPrime h p · q) run run' := by
  intro fuel
  induction fuel with
  | zero => exact nofun
  | succ fuel ih =>
    intro run hfound
    obtain ⟨x, mid, hx, hrest⟩ := andThen_eq_found_iff.mp hfound
    have hprime := takesDraws_of_blumPrime hh hx
    by_cases hxp : x = p
    · subst hxp
      rw [if_pos rfl] at hrest
      exact hprime.append (ih hrest) fun _ _ => .again
    · rw [if_neg hxp] at hrest
      cases hrest
      exact hprime.imp fun _ hl => .accept hl hxp

/-- R133, R136: so is a key. -/
theorem takesDraws_of_primePair {scap L : Nat} (hL : 0 < L / 2) {p q : Nat} {run' : DrawRun} :
    ∀ {fuel : Nat} {run : DrawRun}, primePair scap L fuel run = .found (p, q) run' →
      TakesDraws (DrawsMakeKey L · p q) run run' := by
  intro fuel
  induction fuel with
  | zero => exact nofun
  | succ fuel ih =>
    intro run hfound
    obtain ⟨x, mid, hx, hrest⟩ := andThen_eq_found_iff.mp hfound
    obtain ⟨y, mid', hy, hrest⟩ := andThen_eq_found_iff.mp hrest
    have hfirst := takesDraws_of_blumPrime hL hx
    have hsecond := takesDraws_of_distinctPrime hL hy
    by_cases hlen : bitlen (x * y) = L
    · rw [if_pos hlen] at hrest
      cases hrest
      exact hfirst.append hsecond fun _ _ h1 h2 => .accept h1 h2 ((bitlen_eq_iff_hasLength hL).mp hlen)
    · rw [if_neg hlen] at hrest
      have hpair : TakesDraws (fun l => ∀ more, DrawsMakeKey L more p q → DrawsMakeKey L (l ++ more) p q) run mid' :=
        hfirst.append hsecond fun _ _ h1 h2 _ h3 => .discard h1 h2 (mt (bitlen_eq_iff_hasLength hL).mpr hlen) h3
      exact hpair.append (ih hrest) fun _ _ hl hmore => hl _ hmore

/-- A key the search finds with explicit answers alone is made of the answers it took. -/
theorem drawsMakeKey_of_searchKey {L : Nat} (hL : 0 < L / 2) {p q : Nat} {s : State} {run : DrawRun}
    (hfound : searchKey L s = .found (p, q) run) (hlen : run.draws ≤ s.port.answers.length) :
    DrawsMakeKey L (s.port.answers.take run.draws) p q := by
  obtain ⟨k, rfl, hmade⟩ := takesDraws_of_primePair hL hfound
  simp only [DrawRun.skip_draws, Nat.zero_add] at hlen ⊢
  exact hmade hlen

/-- R132: where the answers make no key within the cap and reach it, so does the search. -/
theorem searchKey_of_noKey {L : Nat} (hL : 0 < L / 2) {s : State} (hcap : s.scap.toNat ≤ s.port.answers.length)
    (hno : NoKeyWithin L s.scap.toNat s.port.answers) :
    searchKey L s = .capReached { draws := s.scap.toNat, port := s.port.skip s.scap.toNat } := by
  have hspec := searchKey_spec L s
  cases hs : searchKey L s with
  | found pq run =>
    obtain ⟨p, q⟩ := pq
    rw [hs] at hspec
    obtain ⟨-, -, -, -, -, hdraws, -⟩ := hspec
    exact absurd (drawsMakeKey_of_searchKey hL hs (by omega))
      (hno _ p q (List.take_prefix _ _) ((List.length_take_le _ _).trans hdraws))
  | capReached run =>
    rw [hs] at hspec
    obtain ⟨hdraws, hport⟩ := hspec
    rw [← hdraws, ← hport]
  | unanswered run =>
    rw [hs] at hspec
    obtain ⟨hdraws, hport, -, hans⟩ := hspec
    rw [hport, RandomPort.skip_answers, List.drop_eq_nil_iff] at hans
    omega

end Sys2Proof.Machine

/-! ### The ends of SETUP (42_blum_setup.md R133, R137, R138) -/

namespace Sys2Proof.Machine

/-- R93, R133: a SETUP of a legal length is its search. -/
theorem exec_setup_of_legal {imm16 : Nat} (heven : requestedLength imm16 % 2 = 0)
    (hfit : requestedLength imm16 ≤ Config.W) (s : State) :
    exec (.setup imm16) s = .next (endSetup (searchKey (requestedLength imm16) s) s) :=
  execSetup_search ((badLength_eq_false_iff _).mpr ⟨heven, hfit⟩) s

/-- R93: a requested length is not 0, so an even one has a half of at least one bit. -/
theorem half_requestedLength_pos {imm16 : Nat} (heven : requestedLength imm16 % 2 = 0) :
    0 < requestedLength imm16 / 2 := by
  have hne : requestedLength imm16 ≠ 0 := by
    rw [requestedLength]
    split_ifs with h0
    · decide
    · exact h0
  omega

/-- R132, R133: with every draw answered the search ends with a key or at the cap. -/
theorem searchKey_answered (L : Nat) {s : State} (hs : DrawsAnswered s) :
    (∃ p q run, searchKey L s = .found (p, q) run ∧ IsBlumCandidate (L / 2) p ∧ IsBlumCandidate (L / 2) q ∧ q ≠ p ∧
      bitlen (p * q) = L ∧ 2 ≤ run.draws ∧ run.draws ≤ s.scap.toNat) ∨
    (∃ run, searchKey L s = .capReached run ∧ run.draws = s.scap.toNat) := by
  have hspec := searchKey_spec L s
  cases hsearch : searchKey L s with
  | found pq run =>
    rw [hsearch] at hspec
    obtain ⟨hp, hq, hne, hlen, hlow, hcap, -⟩ := hspec
    exact .inl ⟨pq.1, pq.2, run, rfl, hp, hq, hne, hlen, hlow, hcap⟩
  | capReached run =>
    rw [hsearch] at hspec
    exact .inr ⟨run, rfl, hspec.1⟩
  | unanswered run =>
    rw [hsearch] at hspec
    obtain ⟨-, -, hsilent, -⟩ := hspec
    exact absurd (hs.symm.trans hsilent) Bool.false_ne_true

/-- R132, R203: a search that reached the cap leaves SCAP in DRAWS. -/
theorem endSetup_capReached {run : DrawRun} {s : State} (hcap : run.draws = s.scap.toNat) :
    endSetup (.capReached run) s =
      raiseFault .setupFailure { clearInstance s with draws := s.scap, port := run.port } := by
  rw [endSetup, afterDraws, hcap, BitVec.ofNat_toNat, BitVec.setWidth_eq]

/-- R138: the Blum primes of one to four bits, by the primes above each candidate. -/
theorem blumCandidate_small {h p : Nat} (hp : IsBlumCandidate h p) (hlow : 0 < h) (hhigh : h ≤ 4) :
    (h = 2 ∧ p = 3) ∨ (h = 3 ∧ (p = 7 ∨ p = 11)) ∨ (h = 4 ∧ p = 11) := by
  obtain ⟨-, h3, x, rfl, hx⟩ := hp
  obtain ⟨hx1, hx2⟩ := hx hlow
  have hsmall : ∀ h : Fin 5, 0 < h.val → ∀ x : Fin 16, 2 ^ (h.val - 1) ≤ x.val → x.val < 2 ^ h.val →
      nextPrime x % 4 = 3 → (h.val = 2 ∧ nextPrime x = 3) ∨
        (h.val = 3 ∧ (nextPrime x = 7 ∨ nextPrime x = 11)) ∨ (h.val = 4 ∧ nextPrime x = 11) := by decide
  have hx16 : x < 2 ^ 4 := lt_of_lt_of_le hx2 (Nat.pow_le_pow_right (by omega) hhigh)
  exact hsmall ⟨h, by omega⟩ hlow ⟨x, hx16⟩ hx1 hx2 h3

/-- R138: below 10 bits no two distinct Blum primes have a product of the right length. -/
theorem no_pair_of_small_length {L p q : Nat} (hL : L = 2 ∨ L = 4 ∨ L = 6 ∨ L = 8) (hp : IsBlumCandidate (L / 2) p)
    (hq : IsBlumCandidate (L / 2) q) (hne : q ≠ p) : bitlen (p * q) ≠ L := by
  have hp' := blumCandidate_small hp (by omega) (by omega)
  have hq' := blumCandidate_small hq (by omega) (by omega)
  obtain ⟨rfl, ⟨rfl, rfl⟩ | ⟨rfl, rfl⟩⟩ : L = 6 ∧ (p = 7 ∧ q = 11 ∨ p = 11 ∧ q = 7) := by omega
  · decide
  · decide

/-- Settles O58: the key the answers make is the one the search finds, and an answered search without one ends at the
cap. -/
theorem setupFollowsItsDraws : Obligations.SetupFollowsItsDraws := by
  intro imm16 s L _ heven hfit
  have hexec : exec (.setup imm16) s = .next (endSetup (searchKey L s) s) := exec_setup_of_legal heven hfit s
  have hhalf : 0 < L / 2 := half_requestedLength_pos heven
  refine ⟨fun used rest p q hans hcap hmake => ?_, fun hcap hno => ?_⟩
  · rw [hexec, searchKey_of_draws hhalf hans hcap hmake, RandomPort.skip, hans, List.drop_left]
    rfl
  · rw [hexec, searchKey_of_noKey hhalf hcap hno, endSetup_capReached rfl]
    rfl

/-- Settles O23: two good answers make their key, by `SetupFollowsItsDraws`. -/
theorem setupCompletesOnTwoGoodAnswers : Obligations.SetupCompletesOnTwoGoodAnswers := by
  intro imm16 p q v w rest s L heven hfit hcap hans hp hq hp3 hq3 hne hlen
  have hmake : DrawsMakeKey L ([v] ++ [w]) p q := .accept (.accept hp hp3) (.accept (.accept hq hq3) hne.symm) hlen
  exact (setupFollowsItsDraws imm16 s heven hfit).1 ([v] ++ [w]) rest p q hans hcap hmake

/-- Settles O24: an answered search that finds no pair ends at the cap. -/
theorem setupOfTheSmallestLengthsAlwaysFails : Obligations.SetupOfTheSmallestLengthsAlwaysFails := by
  intro L s hL hs
  have hreq : requestedLength L = L := if_neg (by omega)
  have hW : Config.W = 4096 := rfl
  have hexec := exec_setup_of_legal (imm16 := L) (by omega) (by omega) s
  rw [hreq] at hexec
  rcases searchKey_answered L hs with ⟨p, q, run, -, hp, hq, hne, hlen, -, -⟩ | ⟨run, hsearch, hdraws⟩
  · exact absurd hlen (no_pair_of_small_length hL hp hq hne)
  · refine ⟨run.port, ?_⟩
    rw [hexec, hsearch, endSetup_capReached hdraws]
    rfl

/-- Settles O22: an answered search ends with a Blum key of the length, which its registers hold whole, or at the
cap. -/
theorem setupMakesAKeyOfTheLengthOrFails : Obligations.SetupMakesAKeyOfTheLengthOrFails := by
  intro imm16 s L _ heven hfit hs
  have hexec : exec (.setup imm16) s = .next (endSetup (searchKey L s) s) := exec_setup_of_legal heven hfit s
  rcases searchKey_answered L hs with ⟨p, q, run, hsearch, hp, hq, hne, hlen, hlow, hcap⟩ | ⟨run, hsearch, hdraws⟩
  · refine .inl ⟨big p, big q, big (p * q), BitVec.ofNat 32 run.draws, run.port, ?_, ?_⟩
    · rw [hexec, hsearch]
      rfl
    · have hlegal : badLength L = false := (badLength_eq_false_iff L).mpr ⟨heven, hfit⟩
      have hkey : BlumKey p q (p * q) := blumKey_of_candidates hlegal hp hq hne hlen
      obtain ⟨hp', hq', hn'⟩ := hkey.toNat_big
      have hdraws : (BitVec.ofNat 32 run.draws).toNat = run.draws := by
        rw [BitVec.toNat_ofNat, Nat.mod_eq_of_lt (hcap.trans_lt s.scap.isLt)]
      rw [lenWord_toNat, hp', hq', hn', BitVec.le_def, hdraws]
      exact ⟨hkey, (bitlen_eq_iff_hasLength (half_requestedLength_pos heven)).mp hlen, hlen, hlow, hcap⟩
  · refine .inr ⟨run.port, ?_⟩
    rw [hexec, hsearch, endSetup_capReached hdraws]
    rfl

end Sys2Proof.Machine

/-! ### The root of a Blum key (43_sqrt_extract.md R150 to R154) -/

namespace Sys2Proof.Machine

theorem BlumKey.symm {p q n : Nat} (h : BlumKey p q n) : BlumKey q p n :=
  ⟨h.primeQ, h.primeP, h.residueQ, h.residueP, h.distinct.symm, h.product.trans (Nat.mul_comm p q), h.length⟩

theorem BlumKey.modulus_pos {p q n : Nat} (h : BlumKey p q n) : 0 < n :=
  h.product ▸ Nat.mul_pos h.primeP.pos h.primeQ.pos

theorem BlumKey.modulus_odd {p q n : Nat} (h : BlumKey p q n) : n % 2 = 1 := by
  have hp := h.residueP
  have hq := h.residueQ
  rw [h.product, Nat.mul_mod, show p % 2 = 1 by omega, show q % 2 = 1 by omega]

/-- R150: with `p = 4i + 3` and `q = 4j + 3` the numerator is `8(2ij + i + j + 1)`. -/
theorem BlumKey.exponent_parts {p q n : Nat} (h : BlumKey p q n) : ∃ i j, p = 4 * i + 3 ∧ q = 4 * j + 3 ∧
    n = 16 * (i * j) + 12 * i + 12 * j + 9 ∧ blumExp p q n = 2 * (i * j) + i + j + 1 := by
  have hp := h.residueP
  have hq := h.residueQ
  have hn : n = 16 * (p / 4 * (q / 4)) + 12 * (p / 4) + 12 * (q / 4) + 9 := by
    rw [h.product]
    conv_lhs => rw [show p = 4 * (p / 4) + 3 by omega, show q = 4 * (q / 4) + 3 by omega]
    ring
  exact ⟨p / 4, q / 4, by omega, by omega, hn, by rw [blumExp]; omega⟩

/-- R154: twice the exponent is an odd multiple of `(p − 1)/2`, plus 1. -/
theorem BlumKey.two_mul_exponent {p q n : Nat} (h : BlumKey p q n) :
    blumExp p q n + blumExp p q n = p / 2 * (q / 2) + 1 := by
  obtain ⟨i, j, rfl, rfl, -, hexp⟩ := h.exponent_parts
  rw [hexp, show (4 * i + 3) / 2 = 2 * i + 1 by omega, show (4 * j + 3) / 2 = 2 * j + 1 by omega]
  ring

/-- Settles O17, by `exponent_parts`. -/
theorem rootExponentIsExact : Obligations.RootExponentIsExact := by
  intro p q n h
  obtain ⟨i, j, rfl, rfl, hn, hexp⟩ := h.exponent_parts
  have hproduct : (4 * i + 3 - 1) * (4 * j + 3 - 1) = 16 * (i * j) + 8 * i + 8 * j + 4 := by
    rw [show 4 * i + 3 - 1 = 4 * i + 2 by omega, show 4 * j + 3 - 1 = 4 * j + 2 by omega]
    ring
  omega

/-- R110: a Legendre symbol is 0, 1 or −1. -/
theorem legendre_values (a p : Nat) : legendre a p = 0 ∨ legendre a p = 1 ∨ legendre a p = -1 := by
  unfold legendre
  split_ifs <;> simp

/-- R110: an odd power of a Legendre symbol is the symbol. -/
theorem legendre_pow_odd (a p : Nat) {k : Nat} (hk : Odd k) : legendre a p ^ k = legendre a p := by
  rcases legendre_values a p with h | h | h <;> rw [h]
  · exact zero_pow hk.pos.ne'
  · exact one_pow k
  · exact hk.neg_one_pow

theorem blumRoot_comm (a p q n : Nat) : blumRoot a p q n = blumRoot a q p n := by
  rw [blumRoot, blumRoot, blumExp, blumExp, Nat.add_comm p q]

/-- R154: the square of the root modulo the first prime, by Euler's criterion. -/
theorem BlumKey.root_sq_modEq {p q n : Nat} (h : BlumKey p q n) (a : Nat) :
    (blumRoot a p q n * blumRoot a p q n : ℤ) ≡ a * legendre a p [ZMOD p] := by
  have : Fact p.Prime := ⟨h.primeP⟩
  have hodd : Odd (q / 2) := by
    have := h.residueQ
    exact Nat.odd_iff.mpr (by omega)
  have hroot : (blumRoot a p q n : ZMod p) = (a : ZMod p) ^ blumExp p q n := by
    rw [blumRoot, modexp_eq_pow_mod, ← Nat.cast_pow, ZMod.natCast_eq_natCast_iff]
    exact (Nat.mod_modEq _ n).of_dvd (h.product ▸ Nat.dvd_mul_right p q)
  have heuler : (a : ZMod p) ^ (p / 2) = (legendre a p : ZMod p) := by
    rw [legendre_eq_legendreSym, legendreSym.eq_pow, Int.cast_natCast]
  rw [← ZMod.intCast_eq_intCast_iff]
  push_cast
  calc (blumRoot a p q n * blumRoot a p q n : ZMod p)
      = (a : ZMod p) ^ (p / 2 * (q / 2) + 1) := by rw [hroot, ← pow_add, h.two_mul_exponent]
    _ = ((legendre a p ^ (q / 2) : ℤ) : ZMod p) * a := by rw [pow_succ, pow_mul, heuler, Int.cast_pow]
    _ = a * legendre a p := by rw [legendre_pow_odd a p hodd, mul_comm]

/-- R154: modulo an odd prime the products of `a` with different signs differ unless `a` has the symbol 0. -/
theorem mul_legendre_modEq_iff (a : Nat) {p : Nat} (hp : p.Prime) (h2 : p ≠ 2) {v : ℤ}
    (hv : v ∈ ({0, 1, -1} : Set ℤ)) :
    (a * legendre a p : ℤ) ≡ a * v [ZMOD p] ↔ legendre a p = v ∨ legendre a p = 0 := by
  have : Fact p.Prime := ⟨hp⟩
  have hzero : (a : ZMod p) = 0 ↔ legendre a p = 0 := by
    rw [legendre_eq_legendreSym, legendreSym.eq_zero_iff, Int.cast_natCast]
  have hsign : (legendre a p : ZMod p) = v ↔ legendre a p = v :=
    (Int.cast_injOn_of_ringChar_ne_two (by rwa [ZMod.ringChar_zmod_n])).eq_iff (legendre_values a p) hv
  rw [← ZMod.intCast_eq_intCast_iff, Int.cast_mul, Int.cast_mul, Int.cast_natCast, mul_eq_mul_left_iff, hsign, hzero]

/-- R154: the square of the root modulo the first prime is `a` times a sign where the symbol is that sign or 0. -/
theorem BlumKey.root_sq_modEq_prime_iff {p q n : Nat} (h : BlumKey p q n) (a : Nat) {v : ℤ}
    (hv : v ∈ ({0, 1, -1} : Set ℤ)) :
    (blumRoot a p q n * blumRoot a p q n : ℤ) ≡ a * v [ZMOD p] ↔ legendre a p = v ∨ legendre a p = 0 := by
  have hp := h.residueP
  have hsq := h.root_sq_modEq a
  rw [← mul_legendre_modEq_iff a h.primeP (by omega) hv]
  exact ⟨hsq.symm.trans, hsq.trans⟩

/-- R154: the square of the root modulo N, by the Chinese remainder theorem. -/
theorem BlumKey.root_sq_modEq_iff {p q n : Nat} (h : BlumKey p q n) (a : Nat) {v : ℤ}
    (hv : v ∈ ({0, 1, -1} : Set ℤ)) :
    (blumRoot a p q n * blumRoot a p q n : ℤ) ≡ a * v [ZMOD n] ↔
      (legendre a p = v ∨ legendre a p = 0) ∧ (legendre a q = v ∨ legendre a q = 0) := by
  have hcoprime : (p : ℤ).natAbs.Coprime (q : ℤ).natAbs := (Nat.coprime_primes h.primeP h.primeQ).mpr h.distinct
  have hq := h.symm.root_sq_modEq_prime_iff a hv
  rw [blumRoot_comm] at hq
  rw [← h.root_sq_modEq_prime_iff a hv, ← hq, Int.modEq_and_modEq_iff_modEq_mul hcoprime, h.product,
    Nat.cast_mul]

/-- R124, R152: `negMod` is the negative modulo `n`. -/
theorem mod_eq_negMod_iff (x a : Nat) {n : Nat} (hn : 0 < n) : x % n = negMod a n ↔ (x : ℤ) ≡ -a [ZMOD n] := by
  have hneg : ((negMod a n : Nat) : ZMod n) = -a := by
    rw [negMod, ZMod.natCast_mod, Nat.cast_sub (Nat.mod_lt a hn).le, ZMod.natCast_self, ZMod.natCast_mod, zero_sub]
  have hlt : negMod a n < n := Nat.mod_lt _ hn
  rw [← ZMod.intCast_eq_intCast_iff, Int.cast_neg, Int.cast_natCast, Int.cast_natCast, ← hneg,
    ZMod.natCast_eq_natCast_iff', Nat.mod_eq_of_lt hlt]

/-- R152, R154: the root is one of `a` where no symbol is −1. -/
theorem BlumKey.root_mod_eq_iff {p q n : Nat} (h : BlumKey p q n) (a : Nat) :
    blumRoot a p q n * blumRoot a p q n % n = a % n ↔ legendre a p ≠ -1 ∧ legendre a q ≠ -1 := by
  have hcrt := h.root_sq_modEq_iff a (v := 1) (by simp)
  have hp := legendre_values a p
  have hq := legendre_values a q
  rw [mul_one, ← Nat.cast_mul, Int.natCast_modEq_iff] at hcrt
  refine hcrt.trans ?_
  omega

/-- R152, R154: the root is one of `−a` where no symbol is 1. -/
theorem BlumKey.root_mod_eq_negMod_iff {p q n : Nat} (h : BlumKey p q n) (a : Nat) :
    blumRoot a p q n * blumRoot a p q n % n = negMod a n ↔ legendre a p ≠ 1 ∧ legendre a q ≠ 1 := by
  have hcrt := h.root_sq_modEq_iff a (v := -1) (by simp)
  have hp := legendre_values a p
  have hq := legendre_values a q
  rw [mul_neg_one, ← Nat.cast_mul, ← mod_eq_negMod_iff _ _ h.modulus_pos] at hcrt
  refine hcrt.trans ?_
  omega

/-- R154: the verification fails exactly for one symbol 1 and the other −1. -/
theorem BlumKey.verify_root_eq_fail_iff {p q n : Nat} (h : BlumKey p q n) (a : Nat) :
    verify (blumRoot a p q n) a n = .fail ↔ legendre a p * legendre a q = -1 := by
  rw [verify_fail, Ne, Ne, h.root_mod_eq_iff, h.root_mod_eq_negMod_iff]
  have hq := legendre_values a q
  rcases legendre_values a p with hp | hp | hp <;> rw [hp] <;> omega

/-- Settles O18: the two congruences, and the verification by the symbols. -/
theorem rootFormulaFollowsTheLegendreSymbols : Obligations.RootFormulaFollowsTheLegendreSymbols := by
  intro a p q n h
  have hq := h.symm.root_sq_modEq a
  rw [blumRoot_comm] at hq
  refine ⟨h.root_sq_modEq a, hq, ?_, ?_, (h.verify_root_eq_fail_iff a).mpr, ?_⟩
  · rintro ⟨hp1, hq1⟩
    rw [verify_pos, h.root_mod_eq_iff]
    omega
  · rintro ⟨hp1, hq1⟩
    rw [verify_neg, Ne, h.root_mod_eq_iff, h.root_mod_eq_negMod_iff]
    omega
  · intro hzero
    rw [Ne, h.verify_root_eq_fail_iff, hzero]
    decide

/-- R110: over a Blum key the Jacobi symbol is the product of the two Legendre symbols. -/
theorem BlumKey.jacobiSym_eq {p q n : Nat} (h : BlumKey p q n) (a : Nat) :
    jacobiSym (a : ℤ) n = legendre a p * legendre a q := by
  have : Fact p.Prime := ⟨h.primeP⟩
  have : Fact q.Prime := ⟨h.primeQ⟩
  rw [h.product, jacobiSym.mul_right, ← jacobiSym.legendreSym.to_jacobiSym,
    ← jacobiSym.legendreSym.to_jacobiSym, legendre_eq_legendreSym, legendre_eq_legendreSym]

end Sys2Proof.Machine

/-! ### SQRT, XINIT and XTRY (43_sqrt_extract.md R153 to R160) -/

namespace Sys2Proof.Machine

/-- R150, R151: the root is a power modulo N. -/
theorem State.root_eq (s : State) :
    s.root = s.a.toNat ^ ((s.n.toNat + 5 - (s.p.toNat + s.q.toNat)) / 8) % s.n.toNat :=
  modexp_eq_pow_mod _ _ _

/-- R25, R123: the result register holds a root exactly. -/
theorem big_root_toNat {s : State} (hn : 0 < s.n.toNat) : (big s.root).toNat = s.root :=
  big_toNat ((modexp_lt _ _ hn).trans s.n.isLt)

/-- R154: with a key the verification fails exactly for the symbol −1. -/
theorem rootCheck_eq_fail_iff {s : State} (h : BlumKey s.p.toNat s.q.toNat s.n.toNat) :
    s.rootCheck = .fail ↔ jacobiSym (s.a.toNat : ℤ) s.n.toNat = -1 := by
  rw [h.jacobiSym_eq]
  exact h.verify_root_eq_fail_iff s.a.toNat

/-- R153: NEG = 0 says that the root is one of A. -/
theorem negFlag_rootCheck_eq_false_iff {s : State} (hv : s.rootCheck ≠ .fail) :
    s.rootCheck.negFlag = false ↔ s.root * s.root % s.n.toNat = s.a.toNat % s.n.toNat := by
  rw [← verify_pos, ← State.rootCheck]
  revert hv
  cases s.rootCheck <;> decide

/-- R153: NEG = 1 says that the root is one of −A and not of A. -/
theorem negFlag_rootCheck_eq_true_iff (s : State) : s.rootCheck.negFlag = true ↔
    s.root * s.root % s.n.toNat ≠ s.a.toNat % s.n.toNat ∧
      s.root * s.root % s.n.toNat = (s.n.toNat - s.a.toNat % s.n.toNat) % s.n.toNat :=
  decide_eq_true_iff.trans verify_neg

/-- R153: a failed verification leaves no root. -/
theorem exec_sqrt_failed {s : State} (hsk : s.sk = true) (hv : s.rootCheck = .fail) :
    exec .sqrt s = .next (raiseFault .verificationFailed (dropRoot s)) :=
  (if_neg (by simp [hsk])).trans (if_pos hv)

/-- R153: a verified root is stored. -/
theorem exec_sqrt_completed {s : State} (hsk : s.sk = true) (hv : s.rootCheck ≠ .fail) :
    exec .sqrt s = .next (complete (storeRoot s)) :=
  (if_neg (by simp [hsk])).trans (if_neg hv)

/-- Settles O19: each clause names the value of `rootCheck`. -/
theorem sqrtFollowsItsVerification : Obligations.SqrtFollowsItsVerification := by
  intro s
  dsimp only
  rw [← State.root_eq]
  refine ⟨exec_sqrt_noKey, fun hsk hpos => ?_, fun hsk hne hneg => ?_, fun hsk hne hneg => ?_⟩
  · have hv : s.rootCheck = .pos := verify_pos.mpr hpos
    rw [exec_sqrt_completed hsk (by simp [hv]), storeRoot, hv]
    rfl
  · have hv : s.rootCheck = .neg := verify_neg.mpr ⟨hne, hneg⟩
    rw [exec_sqrt_completed hsk (by simp [hv]), storeRoot, hv]
    rfl
  · exact exec_sqrt_failed hsk (verify_fail.mpr ⟨hne, hneg⟩)

/-- Settles O20: with a key the verification fails exactly for the symbol −1, and NEG tells of a verified root. -/
theorem sqrtCompletesUnlessTheSymbolIsMinusOne : Obligations.SqrtCompletesUnlessTheSymbolIsMinusOne := by
  intro s hsk hkey
  refine ⟨fun hsym => ?_, fun hsym => exec_sqrt_failed hsk ((rootCheck_eq_fail_iff hkey).mpr hsym)⟩
  have hv : s.rootCheck ≠ .fail := mt (rootCheck_eq_fail_iff hkey).mp hsym
  refine ⟨big s.root, s.rootCheck.negFlag, exec_sqrt_completed hsk hv, big_root_lt hkey.modulus_pos, ?_⟩
  rw [big_root_toNat hkey.modulus_pos]
  exact ⟨negFlag_rootCheck_eq_false_iff hv, fun hneg => ((negFlag_rootCheck_eq_true_iff s).mp hneg).2⟩

/-- Settles O26: the three branches of XINIT, in their order. -/
theorem xinitChecksTheIdentityThenTheKey : Obligations.XinitChecksTheIdentityThenTheKey := fun s =>
  ⟨fun hid => if_pos hid, fun hid hsk => (if_neg hid).trans (if_pos hsk),
    fun hid hsk => (if_neg hid).trans (if_neg (by simp [hsk]))⟩

/-- Settles O27: the two checks of XTRY before it tests a candidate. -/
theorem xtryFaultsWithoutSessionAndAtTheCap : Obligations.XtryFaultsWithoutSessionAndAtTheCap := fun s =>
  ⟨fun hx => if_pos hx, fun hx hcap => (if_neg (by simp [hx])).trans (if_pos (BitVec.le_def.mpr hcap))⟩

section
variable {s : State} (hx : s.xact = true) (hcap : s.iter.toNat < s.xcap.toNat)
include hx hcap

/-- R158: in a session below the cap XTRY tests its candidate. -/
theorem exec_xtry_tested : exec .xtry s =
    if jacobi s.a.toNat s.n.toNat ≠ .plusOne then .next (complete (setAcc false (dropRoot (testCandidate s))))
    else if s.rootCheck = .fail then
      .next (raiseFault .verificationFailed (setSession false (clearResults (testCandidate s))))
    else .next (complete (setAcc true (storeRoot (setSession false (testCandidate s))))) :=
  (if_neg (by simp [hx])).trans (if_neg (BitVec.not_le.mpr (BitVec.lt_def.mpr hcap)))

/-- R158: a candidate of another symbol than 1 is rejected. -/
theorem exec_xtry_rejected (hodd : s.n.toNat % 2 = 1) (hsym : jacobiSym (s.a.toNat : ℤ) s.n.toNat ≠ 1) :
    exec .xtry s = .next (complete (setAcc false (dropRoot (testCandidate s)))) :=
  (exec_xtry_tested hx hcap).trans (if_pos (mt (jacobi_eq_plusOne_iff _ hodd).mp hsym))

/-- R158, R210: a failed verification ends the session with no result. -/
theorem exec_xtry_failed (hodd : s.n.toNat % 2 = 1) (hsym : jacobiSym (s.a.toNat : ℤ) s.n.toNat = 1)
    (hv : s.rootCheck = .fail) : exec .xtry s =
      .next (raiseFault .verificationFailed (setSession false (clearResults (testCandidate s)))) :=
  (exec_xtry_tested hx hcap).trans
    ((if_neg (not_not.mpr ((jacobi_eq_plusOne_iff _ hodd).mpr hsym))).trans (if_pos hv))

/-- R158: a candidate of symbol 1 with a verified root is accepted. -/
theorem exec_xtry_accepted (hodd : s.n.toNat % 2 = 1) (hsym : jacobiSym (s.a.toNat : ℤ) s.n.toNat = 1)
    (hv : s.rootCheck ≠ .fail) : exec .xtry s =
      .next (complete (setAcc true (storeRoot (setSession false (testCandidate s))))) :=
  (exec_xtry_tested hx hcap).trans
    ((if_neg (not_not.mpr ((jacobi_eq_plusOne_iff _ hodd).mpr hsym))).trans (if_neg hv))

end

/-- Settles O28: the value of J is that of the algorithm. -/
theorem xtryRejectsOtherSymbols : Obligations.XtryRejectsOtherSymbols := fun s hx hcap hodd hsym =>
  ⟨jacobi s.a.toNat s.n.toNat, toInt_jacobi _ hodd, exec_xtry_rejected hx hcap hodd hsym⟩

/-- Settles O29: with a key the verification fails only for the symbol −1, and NEG tells of a verified root. -/
theorem xtryAcceptsWithAVerifiedRoot : Obligations.XtryAcceptsWithAVerifiedRoot := by
  intro s hx hcap hkey hsym
  have hv : s.rootCheck ≠ .fail := by
    rw [Ne, rootCheck_eq_fail_iff hkey, hsym]
    decide
  have htest : testCandidate s = { s with iter := s.iter + 1, j := .plusOne } := by
    rw [testCandidate, (jacobi_eq_plusOne_iff _ hkey.modulus_odd).mpr hsym]
  refine ⟨big s.root, s.rootCheck.negFlag, ?_, ?_⟩
  · rw [exec_xtry_accepted hx hcap hkey.modulus_odd hsym hv, htest]
    rfl
  · rw [big_root_toNat hkey.modulus_pos]
    exact ⟨s.root_eq, (negFlag_rootCheck_eq_false_iff hv).mp,
      fun hneg => ((negFlag_rootCheck_eq_true_iff s).mp hneg).symm⟩

/-- Settles O30: the two inequalities are the failed verification. -/
theorem xtryFaultsOnABrokenKey : Obligations.XtryFaultsOnABrokenKey := by
  intro s
  dsimp only
  rw [← State.root_eq]
  exact fun hx hcap hodd hsym hne hneg => exec_xtry_failed hx hcap hodd hsym (verify_fail.mpr ⟨hne, hneg⟩)

end Sys2Proof.Machine

/-! ### The control commands (44_control.md R170, R171) -/

namespace Sys2Proof.Machine

/-- R170: NOP is its own completion. -/
theorem exec_nop (s : State) : exec .nop s = .next (complete s) := rfl

/-- R171: ZEROIZE wipes the registers and completes. -/
theorem exec_zeroize (s : State) : exec .zeroize s = .next (complete (wipe s)) := rfl

/-- R95, R170: acceptance and completion meet in the life-cycle bits. -/
theorem complete_accept (w : Word) (s : State) : complete (accept w s) =
    { s with cmdr := w, busy := false, done := true, flt := false, code := 0, sub := 0 } := rfl

/-- R171: `wipe` written out. -/
theorem wipe_eq (s : State) : wipe s =
    { s with
      n := 0, a := 0, e := 0, r := 0, p := 0, q := 0, sk := false, j := .zero, acc := false, neg := false
      xact := false, idlen := 0, iter := 0, draws := 0 } := rfl

/-- R171: what acceptance and completion do not set, the wipe clears, so that the reset state of R48 is left but for
the controls, CMDR and DONE; SUB, CODE and FLT are cleared by the acceptance alone. -/
theorem complete_wipe_accept (w : Word) (s : State) : complete (wipe (accept w s)) =
    { applyReset s with
      xcap := s.xcap, scap := s.scap, ie := s.ie, accErr := s.accErr, cmdr := w, done := true } := rfl

/-- Settles O12: NOP completes, and the write of its word is its acceptance. -/
theorem nopChangesOnlyTheLifeCycle : Obligations.NopChangesOnlyTheLifeCycle := by
  refine ⟨exec_nop, fun s hidle => ?_⟩
  rw [busWrite_cmd_idle _ hidle, exec_nop, complete_accept]

/-- Settles O13: ZEROIZE completes after the wipe, and the write of its word is its acceptance. -/
theorem zeroizeLeavesTheResetStateButForTheControls :
    Obligations.ZeroizeLeavesTheResetStateButForTheControls := by
  refine ⟨fun s => ?_, fun s hidle => ?_⟩
  · rw [exec_zeroize, wipe_eq, complete]
  · rw [busWrite_cmd_idle _ hidle, exec_zeroize, complete_wipe_accept, applyReset]

end Sys2Proof.Machine

/-! ### LOAD_PUBLIC and JAC (45_host_sequences.md R182, R185) -/

namespace Sys2Proof.Machine

/-- R50, R67: the limb writes of `wrbig N` end the key with the first of them. -/
theorem hostWriteLimbs_n {s : State} (hidle : s.busy = false) (v : Nat) {k : Nat} (hk : k + 1 ≤ Config.NL) :
    hostWriteLimbs .n v (k + 1) s = dropKey { s with n := withLimbs s.n v (k + 1) } := by
  induction k with
  | zero => exact hostWrite_idle rfl hidle rfl
  | succ k ih =>
    rw [hostWriteLimbs, ih (Nat.le_of_succ_le hk)]
    exact hostWrite_idle (decide_eq_true hk) hidle rfl

theorem hostWriteBig_n {s : State} {v : Nat} (hidle : s.busy = false) (hv : v < 2 ^ Config.W) :
    hostWriteBig .n v s = dropKey { s with n := big v } := by
  rw [← withLimbs_all s.n hv]
  exact hostWriteLimbs_n hidle v le_rfl

/-- Settles O54: LOAD_PUBLIC is a `wrbig N`. -/
theorem loadPublicLeavesNoKey : Obligations.LoadPublicLeavesNoKey := by
  intro s n hidle hn
  rw [show 4096 = Config.W from rfl] at hn
  exact hostWriteBig_n hidle hn

theorem hostDo_writeBig_a {h : HostState} {x : Nat} (hidle : h.block.busy = false) (hx : x < 2 ^ Config.W) :
    hostDo (hostWriteBig .a x) h = { h with block := { h.block with a := big x } } := by
  rw [hostDo, hostWriteBig_a hidle hx]

theorem hostDo_writeBig_e {h : HostState} {x : Nat} (hidle : h.block.busy = false) (hx : x < 2 ^ Config.W) :
    hostDo (hostWriteBig .e x) h = { h with block := { h.block with e := big x } } := by
  rw [hostDo, hostWriteBig_e hidle hx]

/-- R95: `cmd` with no command in flight is the acceptance of the command's word. -/
theorem hostCommand_idle {i : Instr} {s : State} (hidle : s.busy = false) :
    hostCommand i s = accept (encode i) s :=
  hostWrite_idle rfl hidle rfl

/-- `cmd I; wait` where the command ends: its end on the accepted state, with STATUS on the bus. -/
theorem hostRun_eq {i : Instr} {h : HostState} {t : State} (hwf : i.wellFormed = true) (hidle : h.block.busy = false)
    (hexec : exec i (accept (encode i) h.block) = .next t) (hend : t.busy = false) :
    hostRun i h = .done () { h with block := { t with rdata := t.statusWord }, polls := h.polls.tail } := by
  obtain ⟨hdecode, -⟩ := decodeOfEncodeIsTheCommand i hwf
  have hturn : engineTurn (accept (encode i) h.block) = .next t := by
    rw [← hexec]
    exact engineTurn_of_decode_ok (accept_busy _ _) hdecode
  rw [hostRun, hostDo, hostCommand_idle hidle]
  obtain ⟨hends, -⟩ := waitEndsWithTheCommand { h with block := accept (encode i) h.block } t hturn
  exact hends hend

/-- R92, R99: the word of JACOBI. -/
theorem encode_jacobi : encode .jacobi = 0x00000001 := rfl

/-- R185: JAC where the command ends, completed or faulted: STATUS and JRES as that end leaves them. -/
theorem jac_eq {x : Nat} {h : HostState} {t : State} (hx : x < 2 ^ Config.W) (hidle : h.block.busy = false)
    (hexec : exec .jacobi (accept (encode .jacobi) { h.block with a := big x }) = .next t) (hend : t.busy = false) :
    jac x h = .done { status := t.statusWord, jres := t.j.word }
      { h with block := { t with rdata := t.j.word }, polls := h.polls.tail } := by
  have hrun := hostRun_eq (h := { h with block := { h.block with a := big x } }) rfl hidle hexec hend
  have hjres : ∀ w, hostRead .jres { t with rdata := w } = (t.j.word, { t with rdata := t.j.word }) := fun w =>
    hostRead_idle (reg := .jres) (s := { t with rdata := w }) rfl hend
  have hstatus : ∀ w, hostRead .status { t with rdata := w } = (t.statusWord, { t with rdata := t.statusWord }) :=
    fun w => hostRead_status { t with rdata := w }
  rw [jac, hostDo_writeBig_a hidle hx, hrun]
  simp only [HostOutcome.andThen_done, hostGet, hstatus, hjres]

/-- R112, R185: JAC on a legal modulus reads DONE and the value of the algorithm, and leaves the rest as it was. -/
theorem jac_completed {x : Nat} {h : HostState} (hx : x < 2 ^ Config.W) (hidle : h.block.busy = false)
    (hodd : h.block.n.toNat % 2 = 1) (hlow : 3 ≤ h.block.n.toNat) :
    ∃ status : Word, status.getLsbD 1 = true ∧ status.getLsbD 2 = false ∧
      jac x h = .done { status := status, jres := (jacobi x h.block.n.toNat).word }
        { h with
          block := { h.block with
            a := big x, cmdr := 0x00000001, done := true, flt := false, code := 0, sub := 0
            j := jacobi x h.block.n.toNat, rdata := (jacobi x h.block.n.toNat).word }
          polls := h.polls.tail } := by
  have hexec := exec_jacobi_completed (s := accept (encode .jacobi) { h.block with a := big x })
    (badModulus_eq_false_of_odd hodd hlow)
  rw [accept_a, accept_n, big_toNat hx] at hexec
  obtain ⟨-, hdone, hflt, -⟩ := statusWord_bits
    (complete (setJ (jacobi x h.block.n.toNat) (accept (encode .jacobi) { h.block with a := big x })))
  refine ⟨_, hdone, hflt, (jac_eq hx hidle hexec (complete_busy _)).trans ?_⟩
  rw [encode_jacobi]
  simp only [complete, setJ, accept, hidle]

/-- R185, R205: JAC on a refused modulus reads FLT and 0. -/
theorem jac_refused {x : Nat} {h : HostState} (hx : x < 2 ^ Config.W) (hidle : h.block.busy = false)
    (hbad : h.block.n.toNat % 2 = 0 ∨ h.block.n.toNat < 3) :
    ∃ status : Word, status.getLsbD 1 = false ∧ status.getLsbD 2 = true ∧
      jac x h = .done { status := status, jres := 0 }
        { h with
          block := { h.block with
            a := big x, cmdr := 0x00000001, done := false, flt := true, code := 0x02, sub := 0
            j := .zero, rdata := 0 }
          polls := h.polls.tail } := by
  have hexec := exec_jacobi_refused (s := accept (encode .jacobi) { h.block with a := big x })
    ((badModulus_eq_true_iff _).mpr hbad)
  obtain ⟨-, hdone, hflt, -⟩ := statusWord_bits
    (raiseFault .badModulus (setJ .zero (accept (encode .jacobi) { h.block with a := big x })))
  refine ⟨_, hdone, hflt, (jac_eq hx hidle hexec (raiseFault_busy _ _)).trans ?_⟩
  rw [encode_jacobi]
  simp only [raiseFault, setJ, accept, hidle, CommandFault.code, CommandFault.sub, JacobiValue.word]

/-- Settles O55: JAC reads what either end of JACOBI leaves, and `toInt_jacobi` says which symbol J holds. -/
theorem jacReadsTheSymbol : Obligations.JacReadsTheSymbol := by
  intro h x hidle hx
  rw [show 4096 = Config.W from rfl] at hx
  refine ⟨fun hodd hlow => ?_, fun hbad => jac_refused hx hidle hbad⟩
  obtain ⟨status, hdone, hflt, hjac⟩ := jac_completed hx hidle hodd hlow
  exact ⟨jacobi x h.block.n.toNat, { status := status, jres := (jacobi x h.block.n.toNat).word },
    toInt_jacobi x hodd, JacobiValue.word_toInt _, hdone, hflt, hjac⟩

end Sys2Proof.Machine

/-! ### The host's arithmetic for the cipher (45_host_sequences.md R186 to R188) -/

namespace Sys2Proof.Machine

/-- The loop of extended Euclid keeps each remainder its factor times `t`, modulo `n`. -/
theorem inverseLoop_modEq {n t : Nat} (fuel : Nat) {r0 r1 : Nat} {t0 t1 : ℤ} (h0 : (r0 : ℤ) ≡ t0 * t [ZMOD n])
    (h1 : (r1 : ℤ) ≡ t1 * t [ZMOD n]) :
    ((inverseLoop fuel r0 r1 t0 t1).1 : ℤ) ≡ (inverseLoop fuel r0 r1 t0 t1).2 * t [ZMOD n] := by
  induction fuel generalizing r0 r1 t0 t1 with
  | zero => exact h0
  | succ fuel ih =>
    unfold inverseLoop
    split_ifs
    · exact h0
    · refine ih h1 ?_
      calc ((r0 % r1 : Nat) : ℤ) = r0 - (r0 / r1 : Nat) * r1 := by
            rw [eq_sub_iff_add_eq, mul_comm]
            exact_mod_cast Nat.mod_add_div r0 r1
        _ ≡ t0 * t - (r0 / r1 : Nat) * (t1 * t) [ZMOD n] := h0.sub (h1.mul_left _)
        _ = (t0 - (r0 / r1 : Nat) * t1) * t := by ring

/-- R187: what the host's `inv` answers is an inverse. -/
theorem mul_inverse {t n inv : Nat} (hn : 1 < n) (h : inverse t n = some inv) : t * inv % n = 1 := by
  have hloop := inverseLoop_modEq (n := n) (t := t) (n + 1) (r0 := n) (r1 := t % n) (t0 := 0) (t1 := 1)
    (by simp [Int.ModEq]) (by simp [Int.ModEq])
  simp only [inverse, Option.ite_none_right_eq_some, Option.some.injEq] at h
  obtain ⟨hgcd, hinv⟩ := h
  rw [hgcd] at hloop
  have hpos : (0 : ℤ) ≤ (inverseLoop (n + 1) n (t % n) 0 1).2 % n := Int.emod_nonneg _ (by omega)
  have hmod : ((t * inv : Nat) : ℤ) ≡ (1 : Nat) [ZMOD n] := by
    rw [← hinv, Nat.cast_mul, Int.toNat_of_nonneg hpos, mul_comm]
    exact ((Int.mod_modEq _ _).mul_right _).trans hloop.symm
  exact Nat.mod_eq_of_modEq (Int.natCast_modEq_iff.mp hmod) hn

/-- R124, R187: `negMod` is the negative modulo `n`. -/
theorem negMod_modEq (a : Nat) {n : Nat} (hn : 0 < n) : (negMod a n : ℤ) ≡ -a [ZMOD n] :=
  (mod_eq_negMod_iff _ a hn).mp (Nat.mod_eq_of_lt (Nat.mod_lt _ hn))

/-- R187: the host's `(t − b) mod n`. -/
theorem mod_add_negMod_modEq (t b : Nat) {n : Nat} (hn : 0 < n) :
    ((t + negMod b n) % n : Nat) ≡ (t - b : ℤ) [ZMOD n] := by
  calc (((t + negMod b n) % n : Nat) : ℤ) ≡ (t + negMod b n : ℤ) [ZMOD n] :=
        mod_cast Nat.mod_modEq (t + negMod b n) n
    _ ≡ t + -b [ZMOD n] := (negMod_modEq b hn).add_left _
    _ = t - b := (sub_eq_add_neg _ _).symm

theorem JacobiValue.toInt_injective : Function.Injective JacobiValue.toInt := by
  intro u v
  cases u <;> cases v <;> simp [JacobiValue.toInt]

/-- R36: the word of JRES tells the symbol. -/
theorem JacobiValue.word_injective : Function.Injective JacobiValue.word := fun u v h =>
  JacobiValue.toInt_injective (by rw [← u.word_toInt, h, v.word_toInt])

/-- R186: the polarity of a bit. -/
theorem toInt_polarity (bit : Bool) : (polarity bit).toInt = if bit then 1 else -1 := by
  cases bit <;> rfl

/-- R186, R188: the bit of its own polarity. -/
theorem bitOfJres_polarity (bit : Bool) : bitOfJres (polarity bit).word = bit := by
  cases bit <;> rfl

/-- R110: a number and its remainder have one symbol. -/
theorem jacobi_mod_eq {m : JacobiValue} {x n : Nat} (hodd : n % 2 = 1) (h : jacobiSym (x : ℤ) n = m.toInt) :
    jacobi (x % n) n = m :=
  JacobiValue.toInt_injective (by rw [toInt_jacobi _ hodd, Int.natCast_mod, ← jacobiSym.mod_left, h])

/-- R188: in a pair's half `c` made of `t` and a square `b` of `r`, the number `(c + 2r)·t` is the square of `t + r`, so
that `c + 2r` has the symbol of `t`. -/
theorem jacobiSym_half {n t inv r c : Nat} {b : ℤ} (hinv : (t * inv : ℤ) ≡ 1 [ZMOD n])
    (hc : (c : ℤ) ≡ t + b * inv [ZMOD n]) (hr : (r * r : ℤ) ≡ b [ZMOD n]) (hcop : (t + r).Coprime n) :
    jacobiSym ((c + 2 * r : Nat) : ℤ) n = jacobiSym (t : ℤ) n := by
  have hsquare : ((c + 2 * r : Nat) : ℤ) * t ≡ (t + r : Nat) ^ 2 [ZMOD n] := by
    calc ((c + 2 * r : Nat) : ℤ) * t = (c + 2 * r) * t := by push_cast; ring
      _ ≡ (t + b * inv + 2 * r) * t [ZMOD n] := (hc.add_right _).mul_right _
      _ = t * t + b * (t * inv) + 2 * r * t := by ring
      _ ≡ t * t + r * r * 1 + 2 * r * t [ZMOD n] := ((hr.symm.mul hinv).add_left _).add_right _
      _ = (t + r : Nat) ^ 2 := by push_cast; ring
  refine Int.eq_of_mul_eq_one ?_
  rw [← jacobiSym.mul_left, jacobiSym.mod_left' hsquare]
  exact jacobiSym.sq_one' (Int.isCoprime_iff_gcd_eq_one.mp (Nat.isCoprime_iff_coprime.mpr hcop))

end Sys2Proof.Machine

/-! ### ENCRYPT_BIT and DECRYPT_BIT (45_host_sequences.md R187, R188) -/

namespace Sys2Proof.Machine

theorem HostOutcome.andThen_eq_done_iff {α β : Type} {m : HostOutcome α} {f : α → HostState → HostOutcome β} {y : β}
    {h' : HostState} : m.andThen f = .done y h' ↔ ∃ x h, m = .done x h ∧ f x h = .done y h' := by
  cases m <;> simp [HostOutcome.andThen]

/-- A host whose block holds the modulus `n`, with no command in flight. -/
structure Holds (n : Nat) (h : HostState) : Prop where
  modulus : h.block.n.toNat = n
  idle : h.block.busy = false

theorem Holds.lt_width {n : Nat} {h : HostState} (hh : Holds n h) : n < 2 ^ Config.W :=
  hh.modulus ▸ h.block.n.isLt

theorem Holds.same_modulus {n : Nat} {h h' : HostState} (hh' : Holds n h') (hh : Holds n h) : h'.block.n = h.block.n :=
  BitVec.eq_of_toNat_eq (hh'.modulus.trans hh.modulus.symm)

/-- R187: a host draw is below the modulus and does not touch the block. -/
theorem hostDraw_spec {n t : Nat} {h h' : HostState} (hn : 0 < n) (hd : hostDraw n h = (t, h')) :
    t < n ∧ h'.block = h.block := by
  unfold hostDraw at hd
  split at hd
  · cases hd
    exact ⟨Nat.mod_lt _ hn, rfl⟩
  · cases hd
    exact ⟨Nat.mod_lt _ hn, rfl⟩

/-- R187: a witness for the symbol `m`, and its inverse. -/
structure IsWitness (n : Nat) (m : JacobiValue) (t inv : Nat) : Prop where
  lt : t < n
  mul_inv : t * inv % n = 1
  symbol : jacobiSym (t : ℤ) n = m.toInt

/-- R186, R187: a witness for a bit, in the words of the rule. -/
theorem isWitness_polarity_iff {n t inv : Nat} {bit : Bool} : IsWitness n (polarity bit) t inv ↔
    t < n ∧ t * inv % n = 1 ∧ jacobiSym (t : ℤ) n = if bit then 1 else -1 := by
  rw [← toInt_polarity]
  exact ⟨fun hw => ⟨hw.lt, hw.mul_inv, hw.symbol⟩, fun ⟨hlt, hinv, hsym⟩ => ⟨hlt, hinv, hsym⟩⟩

theorem IsWitness.mul_inv_modEq {n t inv : Nat} {m : JacobiValue} (hw : IsWitness n m t inv) :
    (t * inv : ℤ) ≡ 1 [ZMOD n] := by
  have hmod := Nat.mod_modEq (t * inv) n
  rw [hw.mul_inv] at hmod
  exact_mod_cast hmod.symm

section
variable {n : Nat} (hodd : n % 2 = 1) (hlow : 3 ≤ n)
include hodd hlow

/-- R185: JAC ends with the symbol, and the block still holds the modulus. -/
theorem jac_of_holds {x : Nat} {h : HostState} (hx : x < 2 ^ Config.W) (hh : Holds n h) :
    ∃ status h', jac x h = .done { status := status, jres := (jacobi x n).word } h' ∧ Holds n h' := by
  obtain ⟨hmod, hidle⟩ := hh
  subst hmod
  obtain ⟨status, -, -, hjac⟩ := jac_completed hx hidle hodd hlow
  exact ⟨status, _, hjac, rfl, hidle⟩

/-- R120, R188: the host's power ends with `x ^ k` modulo `n`, and the block still holds the modulus. -/
theorem hostPower_of_holds {x k : Nat} {h : HostState} (hx : x < 2 ^ Config.W) (hk : k < 2 ^ Config.W)
    (hh : Holds n h) : ∃ h', hostPower x k h = .done (x ^ k % n) h' ∧ Holds n h' := by
  obtain ⟨hmod, hidle⟩ := hh
  subst hmod
  have hexec := exec_modexp_completed (s := accept (encode .modexp) { h.block with a := big x, e := big k })
    (badModulus_eq_false_of_odd hodd hlow)
  rw [accept_a, accept_e, accept_n, big_toNat hx, big_toNat hk] at hexec
  generalize ht : complete (setR (modexp x k h.block.n.toNat)
    (accept (encode .modexp) { h.block with a := big x, e := big k })) = t at hexec
  have hend : t.busy = false := by rw [← ht, complete_busy]
  have hresult : t.r.toNat = x ^ k % h.block.n.toNat := by
    rw [← ht, complete_r, setR_r, big_modexp_toNat x k (Nat.zero_lt_of_lt hlow)]
  have hmodulus : t.n = h.block.n := by rw [← ht, complete_n, setR_n, accept_n]
  have hrun := hostRun_eq (h := { h with block := { h.block with a := big x, e := big k } }) rfl hidle hexec hend
  obtain ⟨w, hread⟩ := hostReadBig_eq .r (s := { t with rdata := t.statusWord }) hend
  rw [show State.bigReg { t with rdata := t.statusWord } .r = t.r from rfl, hresult] at hread
  refine ⟨{ h with block := { t with rdata := w }, polls := h.polls.tail }, ?_, congrArg BitVec.toNat hmodulus, hend⟩
  rw [hostPower, hostDo_writeBig_a hidle hx,
    hostDo_writeBig_e (h := { h with block := { h.block with a := big x } }) hidle hk, hrun]
  simp only [HostOutcome.andThen_done, hostGet, hread]

/-- R187: a redraw loop that ends with a number ends with a witness other than the one to avoid. -/
theorem drawWitness_found {m : JacobiValue} {avoid : Option Nat} {cap t inv : Nat} {h h' : HostState}
    (hh : Holds n h) (hdraw : drawWitness n m avoid cap h = .done (some (t, inv)) h') :
    IsWitness n m t inv ∧ avoid ≠ some t ∧ Holds n h' := by
  induction cap generalizing h with
  | zero => cases hdraw
  | succ cap ih =>
    rw [drawWitness] at hdraw
    obtain ⟨⟨u, g⟩, hd⟩ : ∃ d, hostDraw n h = d := ⟨_, rfl⟩
    obtain ⟨hu, hblock⟩ := hostDraw_spec (by omega) hd
    have hg : Holds n g := ⟨hblock ▸ hh.modulus, hblock ▸ hh.idle⟩
    obtain ⟨status, g', hjac, hg'⟩ := jac_of_holds hodd hlow (hu.trans hg.lt_width) hg
    simp only [hd, hjac, HostOutcome.andThen_done] at hdraw
    split at hdraw
    · rename_i hinv
      split_ifs at hdraw with hgood
      · cases hdraw
        obtain ⟨hsym, havoid⟩ := hgood
        refine ⟨⟨hu, mul_inverse (by omega) hinv, ?_⟩, havoid, hg'⟩
        rw [← toInt_jacobi t hodd, JacobiValue.word_injective hsym]
      · exact ih hg' hdraw
    · exact ih hg' hdraw

/-- R187: the pair ENCRYPT_BIT answers. -/
theorem encryptBit_found {m : JacobiValue} {cap a c1 c2 : Nat} {h h' : HostState} (hh : Holds n h)
    (henc : encryptBit cap n m a h = .done (some (c1, c2)) h') :
    ∃ t1 i1 t2 i2, IsWitness n m t1 i1 ∧ IsWitness n m t2 i2 ∧ t1 ≠ t2 ∧
      c1 < n ∧ c2 < n ∧ (c1 : ℤ) ≡ t1 + a * i1 [ZMOD n] ∧ (c2 : ℤ) ≡ t2 - a * i2 [ZMOD n] ∧ Holds n h' := by
  rw [encryptBit] at henc
  obtain ⟨first, h1, hfirst, henc⟩ := HostOutcome.andThen_eq_done_iff.mp henc
  split at henc
  · cases henc
  · rename_i t1 i1
    obtain ⟨second, h2, hsecond, henc⟩ := HostOutcome.andThen_eq_done_iff.mp henc
    split at henc
    · cases henc
    · rename_i t2 i2
      cases henc
      obtain ⟨hw1, -, hh1⟩ := drawWitness_found hodd hlow hh hfirst
      obtain ⟨hw2, havoid, hh2⟩ := drawWitness_found hodd hlow hh1 hsecond
      have hn : 0 < n := Nat.zero_lt_of_lt hlow
      exact ⟨t1, i1, t2, i2, hw1, hw2, fun he => havoid (congrArg some he), Nat.mod_lt _ hn, Nat.mod_lt _ hn,
        mod_cast Nat.mod_modEq (t1 + a * i1) n, mod_cast mod_add_negMod_modEq t2 (a * i2) hn, hh2⟩

/-- R188: DECRYPT_BIT ends with the bit whose polarity is the symbol of the half chosen by the square of `r`. -/
theorem decryptBit_of_holds {bit : Bool} {c1 c2 r a : Nat} {h : HostState} (hr : r < 2 ^ Config.W)
    (ha : a < 2 ^ Config.W) (hh : Holds n h)
    (hsym : jacobiSym ((if r * r ≡ a [MOD n] then c1 + 2 * r else c2 + 2 * r : Nat) : ℤ) n = (polarity bit).toInt) :
    ∃ h', decryptBit n c1 c2 r a h = .done bit h' ∧ Holds n h' := by
  obtain ⟨h1, hsquare, hh1⟩ :=
    hostPower_of_holds hodd hlow (k := 2) hr ((show 2 < n from hlow).trans hh.lt_width) hh
  obtain ⟨h2, hreduced, hh2⟩ :=
    hostPower_of_holds hodd hlow (k := 1) ha ((show 1 < n by omega).trans hh.lt_width) hh1
  have hx : (if r * r ≡ a [MOD n] then c1 + 2 * r else c2 + 2 * r) % n < n := Nat.mod_lt _ (by omega)
  obtain ⟨status, h3, hjac, hh3⟩ := jac_of_holds hodd hlow (hx.trans hh2.lt_width) hh2
  rw [jacobi_mod_eq hodd hsym] at hjac
  rw [pow_two] at hsquare
  rw [pow_one] at hreduced
  have hhalf : (if r * r % n = a % n then (c1 + 2 * r) % n else (c2 + 2 * r) % n) =
      (if r * r ≡ a [MOD n] then c1 + 2 * r else c2 + 2 * r) % n := (apply_ite (· % n) _ _ _).symm
  refine ⟨h3, ?_, hh3⟩
  simp only [decryptBit, hsquare, hreduced, hhalf, hjac, HostOutcome.andThen_done, bitOfJres_polarity]

end

/-- Settles O60: `encryptBit_found` gives the pair; the half DECRYPT_BIT chooses has the symbol of its witness. -/
theorem encryptedBitsDecrypt : Obligations.EncryptedBitsDecrypt := by
  intro n bit a h hodd hlow hfit hmod hidle witness
  rw [show 4096 = Config.W from rfl] at hfit
  have hh : Holds n h := ⟨by rw [hmod, big_toNat hfit], hidle⟩
  refine ⟨fun cap c1 c2 h' henc => ?_, fun r t1 i1 t2 i2 c1 c2 hr ha hw1 hw2 hc1 hc2 hroot => ?_⟩
  · obtain ⟨t1, i1, t2, i2, hw1, hw2, hne, hlt1, hlt2, hc1, hc2, hh'⟩ := encryptBit_found hodd hlow hh henc
    exact ⟨t1, i1, t2, i2, isWitness_polarity_iff.mp hw1, isWitness_polarity_iff.mp hw2, hne, hlt1, hlt2,
      hc1, hc2, hh'.same_modulus hh, hh'.idle⟩
  · rw [show 4096 = Config.W from rfl] at hr ha
    have hw1' : IsWitness n (polarity bit) t1 i1 := isWitness_polarity_iff.mpr hw1
    have hw2' : IsWitness n (polarity bit) t2 i2 := isWitness_polarity_iff.mpr hw2
    have hsym : jacobiSym ((if r * r ≡ a [MOD n] then c1 + 2 * r else c2 + 2 * r : Nat) : ℤ) n =
        (polarity bit).toInt := by
      rcases hroot with ⟨hsq, hcop⟩ | ⟨hsq, hnot, hcop⟩
      · rw [if_pos (by exact_mod_cast hsq), jacobiSym_half hw1'.mul_inv_modEq hc1 hsq hcop, hw1'.symbol]
      · rw [sub_eq_add_neg, ← neg_mul] at hc2
        rw [if_neg (by exact_mod_cast hnot), jacobiSym_half hw2'.mul_inv_modEq hc2 hsq hcop, hw2'.symbol]
    obtain ⟨h', hdec, hh'⟩ := decryptBit_of_holds hodd hlow hr ha hh hsym
    exact ⟨h', hdec, hh'.same_modulus hh, hh'.idle⟩

end Sys2Proof.Machine

/-! ### Faults, the counters and the interrupt line (60_exceptions.md) -/

namespace Sys2Proof.Machine

/-- Settles O7: the engine's turn answers a next state because every command does, and the other events always do. -/
theorem everyStepHasANextState : Obligations.EveryStepHasANextState := step_next

/-- R207, in the words of the rule. -/
theorem badLength_eq_true_iff (L : Nat) : badLength L = true ↔ L % 2 = 1 ∨ Config.W < L := decide_eq_true_iff

/-- Settles O21: a length SETUP refuses is its first check. -/
theorem setupRefusesBadLengths : Obligations.SetupRefusesBadLengths := fun _ s hL =>
  execSetup_refused ((badLength_eq_true_iff _).mpr hL) s

/-- Every way a command ends with a fault from `s`: the fault the command raises and what it has cleared by then, on
which 60_exceptions.md R203 rests. -/
inductive FaultEnd (s : State) : Instr → State → Prop
  | jacobiModulus : FaultEnd s .jacobi (raiseFault .badModulus (setJ .zero s))
  | modexpModulus : FaultEnd s .modexp (raiseFault .badModulus (setR 0 s))
  | sqrtNoKey : FaultEnd s .sqrt (raiseFault .noKey (dropRoot s))
  | sqrtVerification : FaultEnd s .sqrt (raiseFault .verificationFailed (dropRoot s))
  | setupLength (imm16 : Nat) : FaultEnd s (.setup imm16) (raiseFault .badLength s)
  | setupCap (imm16 : Nat) (run : DrawRun) :
      FaultEnd s (.setup imm16) (raiseFault .setupFailure (afterDraws run (clearInstance s)))
  | xinitIdentity : FaultEnd s .xinit (raiseFault .invalidIdentity (clearSession s))
  | xinitNoKey : FaultEnd s .xinit (raiseFault .noKey (clearSession s))
  | xtrySequence : FaultEnd s .xtry (raiseFault .sequence (clearResults s))
  | xtryCap : FaultEnd s .xtry (raiseFault .capExhausted (setSession false (clearResults s)))
  | xtryVerification :
      FaultEnd s .xtry (raiseFault .verificationFailed (setSession false (clearResults (testCandidate s))))

/-- R201, R203: a command that sets FLT ends in one of its faults; a normal end and a draw that is not answered leave
FLT as it was. -/
theorem exec_faultEnd {i : Instr} {s t : State} (h : exec i s = .next t) (hclear : s.flt = false)
    (hflt : t.flt = true) : FaultEnd s i t := by
  have hkept : t.flt ≠ s.flt := by simp [hclear, hflt]
  cases i with
  | nop => rcases execNop_cases h with rfl; exact absurd rfl hkept
  | zeroize => rcases execZeroize_cases h with rfl; exact absurd rfl hkept
  | jacobi =>
    rcases execJacobi_cases h with ⟨-, rfl⟩ | ⟨-, rfl⟩
    · exact .jacobiModulus
    · exact absurd rfl hkept
  | modexp =>
    rcases execModexp_cases h with ⟨-, rfl⟩ | ⟨-, rfl⟩
    · exact .modexpModulus
    · exact absurd rfl hkept
  | sqrt =>
    rcases execSqrt_cases h with ⟨-, rfl⟩ | ⟨-, -, rfl⟩ | ⟨-, -, rfl⟩
    · exact .sqrtNoKey
    · exact .sqrtVerification
    · exact absurd rfl hkept
  | setup imm16 =>
    rcases execSetup_cases h with ⟨-, rfl⟩ | ⟨-, run, -, rfl⟩ | ⟨-, p, q, run, -, -, -, -, -, -, rfl⟩ |
      ⟨-, -, port, -, -, rfl⟩
    · exact .setupLength imm16
    · exact .setupCap imm16 run
    · exact absurd rfl hkept
    · exact absurd rfl hkept
  | xinit =>
    rcases execXinit_cases h with ⟨-, rfl⟩ | ⟨-, -, rfl⟩ | ⟨-, -, rfl⟩
    · exact .xinitIdentity
    · exact .xinitNoKey
    · exact absurd rfl hkept
  | xtry =>
    rcases execXtry_cases h with ⟨-, rfl⟩ | ⟨-, -, rfl⟩ | ⟨-, -, -, rfl⟩ | ⟨-, -, -, -, rfl⟩ | ⟨-, -, -, -, rfl⟩
    · exact .xtrySequence
    · exact .xtryCap
    · exact absurd rfl hkept
    · exact .xtryVerification
    · exact absurd rfl hkept

/-- Settles O33: each fault end has cleared the result registers its command writes. -/
theorem faultsLeaveNoResult : Obligations.FaultsLeaveNoResult := by
  intro i s t h hclear hflt
  cases exec_faultEnd h hclear hflt <;> simp

/-- Settles O34: the fault ends of each command, by their codes. -/
theorem faultCodesOfEachCommand : Obligations.FaultCodesOfEachCommand := by
  intro i s t h hclear hflt
  cases exec_faultEnd h hclear hflt <;> simp [CommandFault.code, CommandFault.sub]

/-- R38, R159: below the cap ITER counts one candidate without wrapping, up to XCAP. -/
theorem testCandidate_iter_toNat {s : State} (hlt : s.iter < s.xcap) :
    (testCandidate s).iter.toNat = s.iter.toNat + 1 ∧ (testCandidate s).iter.toNat ≤ s.xcap.toNat := by
  have hcap := BitVec.lt_def.mp hlt
  have hfit : s.iter.toNat + 1 < 2 ^ 32 := (Nat.succ_le_of_lt hcap).trans_lt s.xcap.isLt
  have hcount : (s.iter + 1).toNat = s.iter.toNat + 1 := BitVec.toNat_add_of_lt hfit
  exact ⟨hcount, hcount.trans_le hcap⟩

/-- R42, R132: DRAWS holds a count that is within SCAP, so it stays within SCAP. -/
theorem afterDraws_draws_le {run : DrawRun} {cap : Nat} (u : State) (hcap : run.draws ≤ cap) :
    (afterDraws run u).draws.toNat ≤ cap :=
  (BitVec.toNat_ofNat _ _).trans_le ((Nat.mod_le _ _).trans hcap)

/-- Settles O35: the ends of XTRY before and after its cap check, and those of SETUP by the draws they count. -/
theorem countersStayWithinTheirCaps : Obligations.CountersStayWithinTheirCaps := by
  refine fun s t => ⟨fun h => ?_, fun imm16 h => ?_⟩
  · rcases execXtry_cases h with ⟨-, rfl⟩ | ⟨-, -, rfl⟩ | ⟨-, hlt, -, rfl⟩ | ⟨-, hlt, -, -, rfl⟩ |
      ⟨-, hlt, -, -, rfl⟩
    · exact .inl rfl
    · exact .inl rfl
    all_goals exact .inr (testCandidate_iter_toNat hlt)
  · rcases execSetup_cases h with ⟨-, rfl⟩ | ⟨-, run, hdraws, rfl⟩ | ⟨-, p, q, run, -, -, -, -, -, hdraws, rfl⟩ |
      ⟨-, -, port, -, -, rfl⟩
    · exact .inl rfl
    · exact .inr (afterDraws_draws_le (clearInstance s) hdraws.le)
    · exact .inr (afterDraws_draws_le (clearInstance s) hdraws)
    · exact .inl rfl

/-! The interrupt line after each event that writes DONE or FLT (60_exceptions.md R212). -/

theorem irq_eq_true_iff (s : State) : s.irq = true ↔ s.ie = true ∧ (s.done = true ∨ s.flt = true) := by
  simp [State.irq]

@[simp] theorem accept_irq (w : Word) (s : State) : (accept w s).irq = false := by simp [State.irq]

@[simp] theorem complete_irq (s : State) : (complete s).irq = s.ie := by simp [State.irq]

@[simp] theorem raiseFault_irq (k : CommandFault) (s : State) : (raiseFault k s).irq = s.ie := by simp [State.irq]

theorem acknowledge_irq {v : Word} (s : State) (hdone : v.getLsbD 1 = true) (hflt : v.getLsbD 2 = true) :
    (acknowledge v s).irq = false := by
  simp [State.irq, hdone, hflt]

/-- Settles O50: the writes of CMD and STATUS are an acceptance and an acknowledgement, whose interrupt lines are the
lemmas above. -/
theorem interruptFollowsCompletion : Obligations.InterruptFollowsCompletion := by
  intro s w v
  refine ⟨irq_eq_true_iff s, fun hidle => ?_, fun hdone hflt => ?_, complete_irq s, fun k => raiseFault_irq k s⟩
  · rw [busWrite_cmd_idle w hidle, accept_irq]
  · have hwrite : busWrite 0x008 4 v s = acknowledge v s := (statusBitsAndTheirClearing s v).2
    rw [hwrite, acknowledge_irq s hdone hflt]

end Sys2Proof.Machine

/-! ### The silent source and the reset input (70_reset_and_hazards.md R240 to R243, R252) -/

namespace Sys2Proof.Machine

/-- R134: a key takes at least one draw. -/
theorem DrawsMakeKey.length_pos {L p q : Nat} {used : List (BitVec Config.portBits)} (hmake : DrawsMakeKey L used p q) :
    0 < used.length := by
  cases hmake with
  | accept hp => exact hp.length_pos.trans_le (by simp)
  | discard hp => exact hp.length_pos.trans_le (by simp)

theorem noKeyWithin_nil (L scap : Nat) : NoKeyWithin L scap [] := by
  intro used p q hprefix _ hmake
  have hnil := List.prefix_nil.mp hprefix
  exact hmake.length_pos.ne' (List.length_eq_zero_iff.mpr hnil)

/-- R252: a silent source whose answers make no key and end below the cap leaves the search waiting, all of them
taken. -/
theorem searchKey_waits {L : Nat} (hL : 0 < L / 2) {s : State} (hsilent : s.port.silent = true)
    (hcap : s.port.answers.length < s.scap.toNat) (hno : NoKeyWithin L s.scap.toNat s.port.answers) :
    searchKey L s = .unanswered
      { draws := s.port.answers.length, port := s.port.skip s.port.answers.length } := by
  have hspec := searchKey_spec L s
  have hbudget := (searchKey_budget L hsilent).1
  cases hs : searchKey L s with
  | found pq run =>
    obtain ⟨p, q⟩ := pq
    rw [hs] at hbudget
    have hdraws : run.draws ≤ s.port.answers.length := by simp only [Attempt.run] at hbudget; omega
    exact absurd (drawsMakeKey_of_searchKey hL hs hdraws)
      (hno _ p q (List.take_prefix _ _) ((List.length_take_le' _ _).trans hcap.le))
  | capReached run =>
    rw [hs] at hspec hbudget
    obtain ⟨hdraws, -⟩ := hspec
    simp only [Attempt.run] at hbudget
    omega
  | unanswered run =>
    rw [hs] at hspec hbudget
    obtain ⟨-, hport, -, hans⟩ := hspec
    have hdraws : run.draws = s.port.answers.length := by simpa [Attempt.run, hans] using hbudget
    rw [← hdraws, ← hport]

/-- R132: with SCAP = 0 the search is at its cap before the first draw. -/
theorem searchKey_of_cap_zero (L : Nat) {s : State} (hcap : s.scap = 0) :
    ∃ run, searchKey L s = .capReached run ∧ run.draws = s.scap.toNat := by
  have hzero : s.scap.toNat = 0 := by rw [hcap]; rfl
  have hspec := searchKey_spec L s
  cases hs : searchKey L s with
  | found pq run =>
    rw [hs] at hspec
    obtain ⟨-, -, -, -, hlow, hhigh, -⟩ := hspec
    omega
  | capReached run =>
    rw [hs] at hspec
    exact ⟨run, rfl, hspec.1⟩
  | unanswered run =>
    rw [hs] at hspec
    obtain ⟨hlt, -⟩ := hspec
    omega

/-- R243, R252: a silent source whose whole list is taken. -/
theorem RandomPort.skip_all {port : RandomPort} (hsilent : port.silent = true) : port.skip port.answers.length =
    { answers := [], taken := port.taken + port.answers.length, silent := true } := by
  rw [RandomPort.skip, List.drop_length, hsilent]

/-- R252: SETUP then stays in flight, with nothing changed but the port. -/
theorem exec_setup_waits {imm16 : Nat} (heven : requestedLength imm16 % 2 = 0)
    (hfit : requestedLength imm16 ≤ Config.W) {s : State} (hsilent : s.port.silent = true)
    (hcap : s.port.answers.length < s.scap.toNat)
    (hno : NoKeyWithin (requestedLength imm16) s.scap.toNat s.port.answers) :
    exec (.setup imm16) s = .next { s with port := s.port.skip s.port.answers.length } := by
  rw [exec_setup_of_legal heven hfit, searchKey_waits (half_requestedLength_pos heven) hsilent hcap hno]
  rfl

/-- Settles O25: a wait that takes no answer, a wait that takes them all, and the cap reached before the first draw. -/
theorem setupWaitsForASilentSource : Obligations.SetupWaitsForASilentSource := by
  intro imm16 s L heven hfit hsilent
  refine ⟨fun hscap hans => ?_, fun hcap hno => ?_, fun hscap => ?_⟩
  · have hlen : s.port.answers.length = 0 := by rw [hans]; rfl
    have hpos : s.port.answers.length < s.scap.toNat := by
      rw [hlen]
      exact Nat.pos_of_ne_zero fun h => hscap (BitVec.eq_of_toNat_eq h)
    have hwait := exec_setup_waits heven hfit hsilent hpos (by rw [hans]; exact noKeyWithin_nil _ _)
    rwa [hlen, RandomPort.skip_zero] at hwait
  · rw [← RandomPort.skip_all hsilent]
    exact exec_setup_waits heven hfit hsilent hcap hno
  · obtain ⟨run, hsearch, hdraws⟩ := searchKey_of_cap_zero (requestedLength imm16) hscap
    refine ⟨_, exec_setup_of_legal heven hfit s, ?_⟩
    rw [hsearch, endSetup_capReached hdraws]
    exact ⟨rfl, rfl, hscap⟩

/-- R47: a search leaves the port as many answers later as it counts draws. -/
theorem searchKey_port (L : Nat) (s : State) :
    (searchKey L s).run.port = s.port.skip (searchKey L s).run.draws := by
  have hspec := searchKey_spec L s
  cases hs : searchKey L s with
  | found pq run =>
    rw [hs] at hspec
    obtain ⟨-, -, -, -, -, -, hport⟩ := hspec
    exact hport
  | capReached run =>
    rw [hs] at hspec
    exact hspec.2
  | unanswered run =>
    rw [hs] at hspec
    obtain ⟨-, hport, -⟩ := hspec
    exact hport

theorem endSetup_port (search : Attempt (Nat × Nat)) (s : State) : (endSetup search s).port = search.run.port := by
  cases search <;> rfl

theorem drawsOfSetup_refused {L : Nat} (hbad : badLength L = true) (s : State) : drawsOfSetup L s = 0 := if_pos hbad

theorem drawsOfSetup_search {L : Nat} (hlegal : badLength L = false) (s : State) :
    drawsOfSetup L s = (searchKey L s).run.draws := by
  rw [drawsOfSetup, hlegal]
  cases searchKey L s <;> rfl

/-- R47, R243: `drawsOfSetup` is the number of answers a SETUP takes when it is executed. -/
theorem exec_setup_taken {imm16 : Nat} {s t : State} (h : exec (.setup imm16) s = .next t) :
    t.port.taken = s.port.taken + drawsOfSetup (requestedLength imm16) s := by
  cases hb : badLength (requestedLength imm16) with
  | true =>
    cases (execSetup_refused hb s).symm.trans h
    rw [drawsOfSetup_refused hb]
    rfl
  | false =>
    cases (execSetup_search hb s).symm.trans h
    rw [drawsOfSetup_search hb, endSetup_port, searchKey_port, RandomPort.skip_taken]

theorem drawsInFlight_setup {imm16 : Nat} {s : State} (hbusy : s.busy = true)
    (hdec : decode s.cmdr = .ok (.setup imm16)) : drawsInFlight s = drawsOfSetup (requestedLength imm16) s := by
  rw [drawsInFlight, if_pos hbusy, hdec]

/-- R243: only a SETUP in flight has consumed answers. -/
theorem drawsInFlight_eq_zero {s : State} (h : s.busy = false ∨ ∀ imm16, decode s.cmdr ≠ .ok (.setup imm16)) :
    drawsInFlight s = 0 := by
  rw [drawsInFlight]
  split_ifs with hbusy
  · have hother := h.resolve_left (by simp [hbusy])
    split
    · exact absurd ‹_› (hother _)
    · rfl
  · rfl

/-- Settles O2: the reset input keeps the event's count of answers, bounded by the draws in flight. -/
theorem resetInputDiscardsEverything : Obligations.ResetInputDiscardsEverything := by
  intro s consumed rest hinputs
  refine ⟨min consumed (drawsInFlight s), fun hnone => ?_, fun imm16 t hbusy hdec hexec => ?_, ?_⟩
  · rw [drawsInFlight_eq_zero hnone, Nat.min_zero]
  · rw [exec_setup_taken hexec, Nat.add_sub_cancel_left, drawsInFlight_setup hbusy hdec]
  · exact step_of_event hinputs

end Sys2Proof.Machine
